-- ==== Sys2Proof/Word.lean ====
section
/-! DEFINITION. The words of the block: bytes and 16-bit values (00_scope.md R11, R14). All values are unsigned. -/

namespace Sys2Proof

/-- `u8`: a command byte, a data byte, one byte on the transport. -/
abbrev Byte := BitVec 8

/-- `u16`: a data value, a resistance, a step count, a wire word, a count of milliseconds. -/
abbrev Half := BitVec 16

end Sys2Proof
end

