-- ==== Sys2Proof/Config.lean ====
section
/-! DEFINITION. What an implementation fixes (00_scope.md R13) and the free values: constants without a body that
stand for every value the spec leaves open. A claim that holds of the model holds whatever they are. -/

namespace Sys2Proof.Config

/-- `SETTLE_MS`: both settle waits of a transaction, in milliseconds (R13, R185, R186). -/
def settleMs : Half := 1

/-- `FILLER`: the second byte on the wire when the frame has no data byte (R13, R65, R140). -/
def filler : Byte := 0x00

/-- `SLOT_W`: the width of the slot ports (R13, R34, R93, D4). The ports are typed by a width, so that a claim can be
stated at any other; this is the block's. -/
abbrev slotW : Nat := 4

/-- `DWL_POS`: the positioned code of DisableWiperLock (R13, R108, D7, conflict C1). The spec's value; UNVERIFIED against
the device (`notes/assumptions/17.md`). Whatever reads it takes it as an argument in its form named `…With`. -/
def dwlPos : Byte := 0x40

/-- The number of DataEEPROM slots (R12, R81): slots 0 to 9. -/
def slotCount : Nat := 10

/-- The order of the bits of a byte on the serial line (R45, D17). -/
inductive BitOrder where
  | msbFirst
  | lsbFirst
deriving DecidableEq, Repr, Inhabited

/-- Clock polarity and phase of the serial bus (D18). -/
structure SpiMode where
  cpol : Bool
  cpha : Bool
deriving DecidableEq, Repr, Inhabited

/-- `SPI_BIT_ORDER`, OPEN (R13, R45, D17): a property of the transport; no rule reads it. -/
opaque spiBitOrder : BitOrder

/-- `SPI_MODE`, OPEN (R13, D18): a property of the transport; no rule reads it. -/
opaque spiMode : SpiMode

/-- `SPI_CLOCK_HZ`, OPEN (R13, D18): a property of the transport; no rule reads it. -/
opaque spiClockHz : Nat

/-- Free value: the level of `cs` after a TransportFailure (R143, R169, D12). -/
opaque csAfterTransportFailure : Nat → BitVec 1

/-- Free value: `tx0` outside a transaction (R31, 93_implementation_defined.md). -/
opaque latchTx0 : Nat → Byte

/-- Free value: `tx1` outside a transaction (R31, 93_implementation_defined.md). -/
opaque latchTx1 : Nat → Byte

/-- Free value: `tx_has_data` outside a transaction (R31, 93_implementation_defined.md). -/
opaque latchHasData : Nat → Bool

/-- Free value: the port `resp_cmd_byte` while `done` is 0 (R37: the response is valid with `done`). -/
opaque respCmdByte : Nat → Byte

/-- Free value: the port `resp_data_valid` while `done` is 0 (R37). -/
opaque respDataValid : Nat → Bool

/-- Free value: the port `resp_data_byte` while `done` or `resp_data_valid` is 0 (R37, R141). -/
opaque respDataByte : Nat → Byte

/-- Free value: the port `tx_byte` while `tx_req` is 0 (R38). -/
opaque txByte : Nat → Byte

/-- Free value: the port `dly_ms` while `dly_req` is 0 (R38). -/
opaque dlyMs : Nat → Half

/-- Free value: ENC's `cmd_byte` while `status` is not 0, for the inputs ENC reads (R35, R114, D1, D5). -/
opaque encCmdByte (addrKind : BitVec 3) (slot : Nat) (cmdSel : BitVec 3) (data : Option Half) : Byte

/-- Free value: ENC's `data_valid` while `status` is not 0, for the inputs ENC reads (R35, R114, D1, D5). -/
opaque encDataValid (addrKind : BitVec 3) (slot : Nat) (cmdSel : BitVec 3) (data : Option Half) : Bool

/-- Free value: ENC's `data_byte` while it is not defined, for the inputs ENC reads (R35, R114, D1, D5). -/
opaque encDataByte (addrKind : BitVec 3) (slot : Nat) (cmdSel : BitVec 3) (data : Option Half) : Byte

end Sys2Proof.Config
end

