-- ==== Sys2Proof/Syntax.lean ====
section
/-! DEFINITION. What the block is asked to do: commands, device addresses, the six instructions of
`spec/opcode_table.json`, the ports that present them, and the lines of a test program. -/

namespace Sys2Proof

/-- The six Commands, in the source's order (00_scope.md R12, R17, 41_compose.md R103 to R108). -/
inductive Command where
  | write
  | increment
  | decrement
  | read
  | enableWiperLock
  | disableWiperLock
deriving DecidableEq, Repr

/-- A device-register address as a caller writes it (40_address.md R80, 30_encoding.md R73). The slot is any natural
number: `EE10` and above can be written and fail when the address is constructed (R81, R93). -/
inductive AddressOperand where
  | volatileWiper0
  | volatileWiper1
  | nonVolatileWiper0
  | nonVolatileWiper1
  | volatileTCON
  | status
  | dataEEPROM (slot : Nat)
  | wiperLock
deriving DecidableEq, Repr

/-- A constructed MemoryAddress: the closed set of eight kinds (R17, R80); a slot out of range cannot be held. -/
inductive MemoryAddress where
  | volatileWiper0
  | volatileWiper1
  | nonVolatileWiper0
  | nonVolatileWiper1
  | volatileTCON
  | status
  | dataEEPROM (slot : Fin 10)
  | wiperLock
deriving DecidableEq, Repr

/-- The two error kinds of ENC and ADDR (R12, R17, 60_exceptions.md R160). -/
inductive EncError where
  | invalidCombination
  | outOfRangeAddress
deriving DecidableEq, Repr

/-- A frame as ENC composes it: one command byte and an optional data byte (30_encoding.md R60). -/
structure Frame where
  cmdByte : Byte
  dataByte : Option Byte
deriving DecidableEq, Repr

/-- One constructor per row of `spec/opcode_table.json`: a `send` of that Command to an address, with or without a data
value (R74, 42_controller.md R139). `data = none` is the source's `None`. -/
inductive Instr where
  /-- WRITE (R103). -/
  | write (address : AddressOperand) (data : Option Half)
  /-- INCR (R104). -/
  | incr (address : AddressOperand) (data : Option Half)
  /-- DECR (R105). -/
  | decr (address : AddressOperand) (data : Option Half)
  /-- READ (R106). -/
  | read (address : AddressOperand) (data : Option Half)
  /-- ENWL (R107). -/
  | enwl (address : AddressOperand) (data : Option Half)
  /-- DISWL (R108). -/
  | diswl (address : AddressOperand) (data : Option Half)
deriving DecidableEq, Repr

/-- The Command of an instruction. -/
def Instr.command : Instr → Command
  | .write _ _ => .write
  | .incr _ _ => .increment
  | .decr _ _ => .decrement
  | .read _ _ => .read
  | .enwl _ _ => .enableWiperLock
  | .diswl _ _ => .disableWiperLock

/-- The address operand of an instruction. -/
def Instr.address : Instr → AddressOperand
  | .write a _ => a
  | .incr a _ => a
  | .decr a _ => a
  | .read a _ => a
  | .enwl a _ => a
  | .diswl a _ => a

/-- The data operand of an instruction. -/
def Instr.data : Instr → Option Half
  | .write _ d => d
  | .incr _ d => d
  | .decr _ d => d
  | .read _ d => d
  | .enwl _ d => d
  | .diswl _ d => d

/-- ENC's input ports (10_state.md R34), the slot port `slotW` bits wide. -/
structure EncPorts (slotW : Nat) where
  addrKind : BitVec 3
  slot : BitVec slotW
  cmdSel : BitVec 3
  dataPresent : Bool
  data : Half
deriving DecidableEq, Repr

/-- ENC's output ports (10_state.md R35). -/
structure EncOut where
  status : BitVec 2
  cmdByte : Byte
  dataValid : Bool
  dataByte : Byte
deriving DecidableEq, Repr

/-- CTRL's request ports while `req_valid` is 1 (10_state.md R36), the slot port `slotW` bits wide. -/
structure RequestPorts (slotW : Nat) where
  /-- `req_op`: 0 `send_command`, 1 `set_resistance`, 2 and 3 illegal. -/
  op : BitVec 2
  addrKind : BitVec 3
  slot : BitVec slotW
  cmdSel : BitVec 3
  dataPresent : Bool
  data : Half
  /-- `req_target`: the target resistance of `set_resistance`. -/
  target : Half
deriving DecidableEq, Repr

/-- One line of a test program (30_encoding.md R74). -/
inductive Line where
  | construct (fullScale nBits : Half)
  | compose (i : Instr)
  | send (i : Instr)
  | setres (target : Half)
deriving DecidableEq, Repr

end Sys2Proof
end

