-- ==== Sys2Proof/WellFormed.lean ====
section
/-! DEFINITION. Which instructions are legal: the checks of 30_encoding.md R70 that an instruction can fail. An ill-formed
instruction still runs: CTRL takes the fault of 60_exceptions.md R161 or R162. -/

namespace Sys2Proof

/-- The slot of a DataEEPROM address is 0 to 9 (R81); every other address is in range. -/
def AddressOperand.inRange : AddressOperand → Bool
  | .dataEEPROM slot => decide (slot < Config.slotCount)
  | .volatileWiper0 | .volatileWiper1 | .nonVolatileWiper0 | .nonVolatileWiper1 | .volatileTCON | .status
  | .wiperLock => true

/-- A slot port of `slotW` bits can hold the slot of this address (R93). -/
def AddressOperand.fits (slotW : Nat) : AddressOperand → Bool
  | .dataEEPROM slot => decide (slot < 2 ^ slotW)
  | .volatileWiper0 | .volatileWiper1 | .nonVolatileWiper0 | .nonVolatileWiper1 | .volatileTCON | .status
  | .wiperLock => true

/-- Write has data, every other command has none (R70, 41_compose.md R102). -/
def Command.dataLegal (c : Command) (d : Option Half) : Bool :=
  decide (c = .write) == d.isSome

/-- A well-formed instruction: its address can be constructed and its data presence is legal. Bits 15:10 of the data
are no check: they are discarded without error (R66). -/
def Instr.wf (i : Instr) : Bool :=
  i.address.inRange && i.command.dataLegal i.data

end Sys2Proof
end

