-- ==== Sys2Proof/Decode.lean ====
section
/-! DEFINITION. The two encodings of an instruction, decoder first and encoder after it.

The REQUEST PORTS (10_state.md R36, 40_address.md R92, R93, 41_compose.md R113, 42_controller.md R148) are what CTRL
reads: they name every instruction exactly, and the machine runs from them.

The WIRE WORD (30_encoding.md R65, R68; `spec/opcode_table.json`) is what the transport carries: command byte in bits
15:8, data or filler byte in bits 7:0. It does not name one instruction (R69): the wire decoder answers one of the
instructions with that word, chosen as `notes/assumptions/14.md` says. -/

namespace Sys2Proof

/-- Why a decoder rejects its input. -/
inductive DecodeError where
  /-- `cmd_sel` 6 or 7 names no Command (R113, R163). -/
  | illegalSelector
  /-- A wire word that no form of R68 gives: a command without data whose bits 9:0 are not all zero. -/
  | notAFrame
  /-- Fewer than the two bytes every wire frame has (R65). -/
  | truncated
deriving DecidableEq, Repr

/-! ## Decoding the request ports -/

/-- The address kinds of the `addr_kind` port; the slot is read only for kind 6 (R92, R93). -/
def decodeAddress {slotW : Nat} (kind : BitVec 3) (slot : BitVec slotW) : AddressOperand :=
  match kind.toNat with
  | 0 => .volatileWiper0
  | 1 => .volatileWiper1
  | 2 => .nonVolatileWiper0
  | 3 => .nonVolatileWiper1
  | 4 => .volatileTCON
  | 5 => .status
  | 6 => .dataEEPROM slot.toNat
  | _ => .wiperLock

/-- The command selectors of the `cmd_sel` port (R113): 6 and 7 name no Command. -/
def decodeCommand (sel : BitVec 3) : Except DecodeError Command :=
  match sel.toNat with
  | 0 => .ok .write
  | 1 => .ok .increment
  | 2 => .ok .decrement
  | 3 => .ok .read
  | 4 => .ok .enableWiperLock
  | 5 => .ok .disableWiperLock
  | _ => .error .illegalSelector

/-- `Some(data)` when `data_present` is 1, else `None` (R34, R36, R148). -/
def decodeData (present : Bool) (data : Half) : Option Half :=
  if present then some data else none

/-- The instruction of a Command with its operands. -/
def Instr.ofCommand (c : Command) (a : AddressOperand) (d : Option Half) : Instr :=
  match c with
  | .write => .write a d
  | .increment => .incr a d
  | .decrement => .decr a d
  | .read => .read a d
  | .enableWiperLock => .enwl a d
  | .disableWiperLock => .diswl a d

/-- The instruction a `send_command` request presents (R148). -/
def decodeRequest {slotW : Nat} (r : RequestPorts slotW) : Except DecodeError Instr :=
  match decodeCommand r.cmdSel with
  | .error e => .error e
  | .ok c => .ok (Instr.ofCommand c (decodeAddress r.addrKind r.slot) (decodeData r.dataPresent r.data))

/-! ## Decoding a wire word -/

/-- The address at a register code (20_memory.md R41). Code 0x5 is two addresses (R91); this answers StatusRegister. -/
def AddressOperand.ofCode (k : BitVec 4) : AddressOperand :=
  match k.toNat with
  | 0 => .volatileWiper0
  | 1 => .volatileWiper1
  | 2 => .nonVolatileWiper0
  | 3 => .nonVolatileWiper1
  | 4 => .volatileTCON
  | 5 => .status
  | 15 => .wiperLock
  | n => .dataEEPROM (n - 5)

/-- One instruction with this wire word, for a given `DWL_POS` (D7). A word of row DISWL has the bits of `DWL_POS` set, and
the other bits of the command byte's low nibble and all of the second byte 0 (R63, R68). That row is tried first, then
WRITE: at the spec's `DWL_POS` (mask 0x4FFF, match 0x4000) a word of row DISWL reads as DISWL, any other word with field
C = 00 as WRITE; field C = 01 reads as INCR, never ENWL (R69 items 1 and 2; `notes/assumptions/14.md`). -/
def decodeWireWith (dwl : Byte) (w : Half) : Except DecodeError Instr :=
  let a := AddressOperand.ofCode (w.extractLsb' 12 4)
  if w &&& ((dwl ||| 0x0F#8) ++ 0xFF#8) = dwl ++ 0x00#8 then .ok (.diswl a none)
  else if w &&& 0x0C00#16 = 0x0000#16 then .ok (.write a (some (w &&& 0x03FF#16)))
  else if w &&& 0x0FFF#16 = 0x0400#16 then .ok (.incr a none)
  else if w &&& 0x0FFF#16 = 0x0800#16 then .ok (.decr a none)
  else if w &&& 0x0FFF#16 = 0x0C00#16 then .ok (.read a none)
  else .error .notAFrame

/-- One instruction with this wire word, at the spec's `DWL_POS`. -/
def decodeWire (w : Half) : Except DecodeError Instr :=
  decodeWireWith Config.dwlPos w

/-- Decoding the bytes of the transport: the command byte first, then the data or filler byte (R43, R65). Answers the
instruction and the bytes after it. -/
def decode : List Byte → Except DecodeError (Instr × List Byte)
  | b0 :: b1 :: rest =>
    match decodeWire (b0 ++ b1) with
    | .ok i => .ok (i, rest)
    | .error e => .error e
  | [_] => .error .truncated
  | [] => .error .truncated

/-- The instruction the decoder reads from an instruction of the opcode table: `w` numbered as the table numbers it, bits
15:8 the command byte, sent first. A shorter row is completed by zeros; no row is longer than 16 bits. -/
def decodeTableWord (nbits w : Nat) : Option Instr :=
  if nbits ≤ 16 then
    let word : Half := BitVec.ofNat 16 (w % 2 ^ nbits)
    match decode [word.extractLsb' 8 8, word.extractLsb' 0 8] with
    | .ok (i, _) => some i
    | .error _ => none
  else none

/-! ## Encoding -/

/-- The `addr_kind` port of an address (R92). -/
def AddressOperand.kind : AddressOperand → BitVec 3
  | .volatileWiper0 => 0
  | .volatileWiper1 => 1
  | .nonVolatileWiper0 => 2
  | .nonVolatileWiper1 => 3
  | .volatileTCON => 4
  | .status => 5
  | .dataEEPROM _ => 6
  | .wiperLock => 7

/-- A `slot` port of `slotW` bits for an address (R93). A slot that the port cannot hold is presented as the largest value
it has, so that it fails as every slot of 10 or more does (`notes/assumptions/31.md`); zero where no slot is read
(`notes/assumptions/24.md`). -/
def AddressOperand.slotPort (slotW : Nat) : AddressOperand → BitVec slotW
  | .dataEEPROM slot => BitVec.ofNat slotW (min slot (2 ^ slotW - 1))
  | .volatileWiper0 | .volatileWiper1 | .nonVolatileWiper0 | .nonVolatileWiper1 | .volatileTCON | .status
  | .wiperLock => 0

/-- The `cmd_sel` port of a Command (R113). -/
def Command.selector : Command → BitVec 3
  | .write => 0
  | .increment => 1
  | .decrement => 2
  | .read => 3
  | .enableWiperLock => 4
  | .disableWiperLock => 5

/-- The request ports that present an instruction (R148). Ports CTRL does not read for it are zero
(`notes/assumptions/24.md`). -/
def encodeRequest {slotW : Nat} (i : Instr) : RequestPorts slotW :=
  { op := 0
    addrKind := i.address.kind
    slot := i.address.slotPort slotW
    cmdSel := i.command.selector
    dataPresent := i.data.isSome
    data := i.data.getD 0
    target := 0 }

/-- The register code of an address, field A of the wire word (20_memory.md R41). -/
def AddressOperand.wireCode : AddressOperand → BitVec 4
  | .volatileWiper0 => 0x0
  | .volatileWiper1 => 0x1
  | .nonVolatileWiper0 => 0x2
  | .nonVolatileWiper1 => 0x3
  | .volatileTCON => 0x4
  | .status => 0x5
  | .dataEEPROM slot => BitVec.ofNat 4 (5 + slot)
  | .wiperLock => 0xF

/-- The 16-bit wire word of a well-formed instruction, written from the patterns of 30_encoding.md R68; in DISWL a given
`DWL_POS` is OR-ed into the command byte (R63, D7). -/
def encodeWireWith (dwl : Byte) (i : Instr) : Half :=
  match i with
  | .write a d => a.wireCode ++ 0b00#2 ++ (d.getD 0).extractLsb' 0 10
  | .incr a _ => a.wireCode ++ 0b01#2 ++ 0#10
  | .decr a _ => a.wireCode ++ 0b10#2 ++ 0#10
  | .read a _ => a.wireCode ++ 0b11#2 ++ 0#10
  | .enwl a _ => a.wireCode ++ 0b01#2 ++ 0#10
  | .diswl a _ => ((a.wireCode ++ 0#4) ||| dwl) ++ 0x00#8

/-- The wire word of a well-formed instruction at the spec's `DWL_POS`. -/
def encodeWire (i : Instr) : Half :=
  encodeWireWith Config.dwlPos i

/-- The two bytes of a well-formed instruction in transport order (R43, R65). -/
def encode (i : Instr) : List Byte :=
  [(encodeWire i).extractLsb' 8 8, (encodeWire i).extractLsb' 0 8]

/-- The instruction the wire decoder answers for the word of `i` at the spec's `DWL_POS`: one instruction for each class
that R69 says the wire does not tell apart. -/
def Instr.wireReading (i : Instr) : Instr :=
  let a := AddressOperand.ofCode i.address.wireCode
  match i with
  | .write _ d =>
    let v := (d.getD 0) &&& 0x03FF#16
    if i.address.wireCode.getLsbD 2 && v == 0 then .diswl a none else .write a (some v)
  | .incr _ _ => .incr a none
  | .decr _ _ => .decr a none
  | .read _ _ => .read a none
  | .enwl _ _ => .incr a none
  | .diswl _ _ => .diswl (AddressOperand.ofCode (i.address.wireCode ||| 0b0100#4)) none

end Sys2Proof
end

