-- ==== Sys2Proof/Machine/State.lean ====
section
/-! DEFINITION. CTRL's state and the machine's reasons to stop (10_state.md). The list of fields is closed by R39:
registers R23 to R29, the trace R27, and ports R34 to R38; the model's own additions are marked. -/

namespace Sys2Proof.Machine

/-- CTRL's transaction state (R26), with the "none" / "no handle" of R31, R142 and R182: before the first construct. -/
inductive Phase where
  | noHandle
  | idle
  | asserted
  | byteSent1
  | byteSent2
  | faulted
deriving DecidableEq, Repr

/-- The errors CTRL can fault with (60_exceptions.md R160). -/
inductive CtrlError where
  | invalidCombination
  | outOfRangeAddress
  | illegalSelector
  | scaleDivByZero
  | transportFailure
  | illegalRequest
deriving DecidableEq, Repr

/-- One capability event of the trace (R15, R27). -/
inductive Event where
  | csLow
  | csHigh
  | send (b : Byte)
  | delayMs (n : Half)
deriving DecidableEq, Repr

/-- A capability request CTRL has made and is waiting on: `tx_req` with `tx_byte`, or `dly_req` with `dly_ms`
(R38, R172, R174). -/
inductive CapRequest where
  | delay (ms : Half)
  | send (b : Byte)
deriving DecidableEq, Repr

/-- A capability's answer: `dly_done`, `tx_ack` or `tx_err` (R38, R172, R174). -/
inductive Answer where
  | dlyDone
  | txAck
  | txErr
deriving DecidableEq, Repr

/-- The value a completed operation returns (42_controller.md R141). -/
structure Response where
  cmdByte : Byte
  dataByte : Option Byte
deriving DecidableEq, Repr

/-- What HOST and the capabilities do to the block, one event at a time (R36, R38, `notes/assumptions/3.md`). -/
inductive Input where
  /-- HOST strobes `construct` with `cfg_full_scale`, `cfg_n_bits`. -/
  | construct (fullScale nBits : Half)
  /-- HOST strobes `req_valid`. -/
  | request (r : RequestPorts Config.slotW)
  /-- HOST drives ENC's input ports. -/
  | encDrive (p : EncPorts Config.slotW)
  /-- A capability answers. -/
  | answer (a : Answer)
  /-- Nothing is strobed. -/
  | quiet
deriving DecidableEq, Repr

/-- Everything the block holds, its ports, and what its environment will do next. -/
structure State where
  /-- `full_scale` (R23). -/
  fullScale : Half
  /-- `n_bits` (R24). -/
  nBits : Half
  /-- `cs`, and the port `cs_n` that always equals it: 1 high, deasserted; 0 low, asserted (R25, R38). -/
  cs : BitVec 1
  /-- `phase` (R26). -/
  phase : Phase
  /-- `fault_code` (R28); `none` is code 0. -/
  faultCode : Option CtrlError
  /-- `tx0` (R29). -/
  tx0 : Byte
  /-- `tx1` (R29). -/
  tx1 : Byte
  /-- `tx_has_data` (R29). -/
  txHasData : Bool
  /-- The event trace, oldest event first (R27). -/
  trace : List Event
  /-- The outstanding handshake on `tx_req`, `tx_byte` or `dly_req`, `dly_ms` (R38). -/
  pending : Option CapRequest
  /-- `done` and the response ports: present exactly while `done` is 1 (R37, R141). -/
  resp : Option Response
  /-- ENC's input ports, driven by HOST (R34). -/
  encIn : EncPorts Config.slotW
  /-- What the environment does next, in order (R36, R38). -/
  inputs : List Input
  /-- The MODEL's own: numbers the free values (`notes/assumptions/11.md`). -/
  freeIdx : Nat
deriving DecidableEq, Repr

/-- Why the machine has no step: it waits and nothing comes. None of these is a fault of CTRL (those are next states,
60_exceptions.md R169); each is a stuck state, safe. -/
inductive Fault where
  /-- Raised by a step between transactions when no input is left: CTRL waits for an operation (R181). Safe. -/
  | awaitingInput
  /-- Raised by a step when a `DelayMs` is outstanding and no input is left: a hang (R144). Safe. -/
  | awaitingTimer
  /-- Raised by a step when a `Send` is outstanding and no input is left: a hang (R144). Safe. -/
  | awaitingTransport
deriving DecidableEq, Repr

/-- What the machine refuses to give a meaning. -/
inductive Refusal where
  /-- Raised by `exec` for an instruction without a meaning; no arm does. Safe. -/
  | notModelled (mnemonic : String)
  /-- Raised by every request before the first construct (R145, R182): the spec gives it no step. Safe. -/
  | noHandle
deriving DecidableEq, Repr

/-- The outcome of an operation. -/
abbrev Result := Host.Outcome State Fault Refusal

/-- Power-on: no handle, nothing traced, nothing presented (R182; 95_test_vectors.md section 5). The spec gives the
registers no value here: those below are DESIGN CHOICES (`notes/assumptions/2.md`). CTRL's reset in the spec's sense is
`construct` (R181), an operation: `notes/assumptions/1.md`. -/
def State.reset : State :=
  { fullScale := 0
    nBits := 0
    cs := 0
    phase := .noHandle
    faultCode := none
    tx0 := 0
    tx1 := 0
    txHasData := false
    trace := []
    pending := none
    resp := none
    encIn := { addrKind := 0, slot := 0, cmdSel := 0, dataPresent := false, data := 0 }
    inputs := []
    freeIdx := 0 }

end Sys2Proof.Machine
end

