-- ==== Sys2Proof/Machine/Flags.lean ====
section
/-! DEFINITION. Status outputs: the block has no flags register (10_state.md R30); what HOST can read is computed here. -/

namespace Sys2Proof.Machine

/-- The 3-bit code of a phase (R26). Before any construct there is no phase to encode (R31). -/
def Phase.code : Phase → Option (BitVec 3)
  | .noHandle => none
  | .idle => some 0
  | .asserted => some 1
  | .byteSent1 => some 2
  | .byteSent2 => some 3
  | .faulted => some 4

/-- `busy`: 1 exactly in Asserted, ByteSent1 and ByteSent2 (R30). -/
def Phase.busy : Phase → Bool
  | .asserted | .byteSent1 | .byteSent2 => true
  | .noHandle | .idle | .faulted => false

/-- `fault_code` (R28, R160). -/
def faultCodeBits : Option CtrlError → BitVec 3
  | none => 0
  | some .invalidCombination => 1
  | some .outOfRangeAddress => 2
  | some .illegalSelector => 3
  | some .scaleDivByZero => 4
  | some .transportFailure => 5
  | some .illegalRequest => 6

/-- The CTRL fault of an ENC or ADDR error (R160, R161, R162). -/
def encFault : EncError → CtrlError
  | .invalidCombination => .invalidCombination
  | .outOfRangeAddress => .outOfRangeAddress

/-- ENC's `status` for an error (R35, R160). -/
def encStatus : EncError → BitVec 2
  | .invalidCombination => 1
  | .outOfRangeAddress => 2

/-- CTRL's output ports, to HOST (R37) and to the capabilities (R38). -/
structure CtrlOut where
  busy : Bool
  faulted : Bool
  faultCode : BitVec 3
  done : Bool
  respCmdByte : Byte
  respDataValid : Bool
  respDataByte : Byte
  csN : BitVec 1
  txReq : Bool
  txByte : Byte
  dlyReq : Bool
  dlyMs : Half
deriving DecidableEq, Repr

/-- The response ports: valid with `done`; `resp_data_byte` only with `resp_data_valid` (R37, R141). -/
def respPorts (s : State) : Bool × Byte × Bool × Byte :=
  match s.resp with
  | none => (false, Config.respCmdByte s.freeIdx, Config.respDataValid s.freeIdx, Config.respDataByte s.freeIdx)
  | some ⟨b, none⟩ => (true, b, false, Config.respDataByte s.freeIdx)
  | some ⟨b, some x⟩ => (true, b, true, x)

/-- The transport's request ports: `tx_req` and `tx_byte` (R38, R172). -/
def txPorts (s : State) : Bool × Byte :=
  match s.pending with
  | some (.send b) => (true, b)
  | some (.delay _) => (false, Config.txByte s.freeIdx)
  | none => (false, Config.txByte s.freeIdx)

/-- The timer's request ports: `dly_req` and `dly_ms` (R38, R174). -/
def dlyPorts (s : State) : Bool × Half :=
  match s.pending with
  | some (.delay n) => (true, n)
  | some (.send _) => (false, Config.dlyMs s.freeIdx)
  | none => (false, Config.dlyMs s.freeIdx)

/-- CTRL's output ports as functions of its state. -/
def State.ctrlOut (s : State) : CtrlOut :=
  let r := respPorts s
  let t := txPorts s
  let d := dlyPorts s
  { busy := s.phase.busy
    faulted := decide (s.phase = .faulted)
    faultCode := faultCodeBits s.faultCode
    done := r.1
    respCmdByte := r.2.1
    respDataValid := r.2.2.1
    respDataByte := r.2.2.2
    csN := s.cs
    txReq := t.1
    txByte := t.2
    dlyReq := d.1
    dlyMs := d.2 }

end Sys2Proof.Machine
end

