-- ==== Sys2Proof/Machine/Operands.lean ====
section
/-! DEFINITION. How operands become bits: addresses (40_address.md), positioned commands (41_compose.md R109), the 10-bit
data split (30_encoding.md R66) and the resistance scaling (42_controller.md R133, R134). -/

namespace Sys2Proof.Machine

/-- ADDR: the validated constructor of a DataEEPROM address (R81). -/
def makeDataEEPROM (slot : Nat) : Except EncError MemoryAddress :=
  if h : slot < 10 then .ok (.dataEEPROM ⟨slot, h⟩) else .error .outOfRangeAddress

/-- The MemoryAddress an operand constructs; only DataEEPROM can fail (R81). -/
def resolveAddress : AddressOperand → Except EncError MemoryAddress
  | .volatileWiper0 => .ok .volatileWiper0
  | .volatileWiper1 => .ok .volatileWiper1
  | .nonVolatileWiper0 => .ok .nonVolatileWiper0
  | .nonVolatileWiper1 => .ok .nonVolatileWiper1
  | .volatileTCON => .ok .volatileTCON
  | .status => .ok .status
  | .dataEEPROM slot => makeDataEEPROM slot
  | .wiperLock => .ok .wiperLock

/-- `code(a)`, the 4-bit register code of an address (R82 to R90). -/
def addrCode : MemoryAddress → BitVec 4
  | .volatileWiper0 => 0x0
  | .volatileWiper1 => 0x1
  | .nonVolatileWiper0 => 0x2
  | .nonVolatileWiper1 => 0x3
  | .volatileTCON => 0x4
  | .status => 0x5
  | .dataEEPROM slot => 0x5 + BitVec.ofNat 4 slot.val
  | .wiperLock => 0xF

/-- `ADDR_POS(a)`: the code shifted to bits 7:4 (R62, R90). -/
def addrPos (a : MemoryAddress) : Byte :=
  (addrCode a).setWidth 8 <<< 4

/-- `CMD_POS(c)` for a given positioned code of DisableWiperLock (R109, D7). -/
def cmdPosWith (dwl : Byte) : Command → Byte
  | .write => 0x00
  | .increment => 0x04
  | .decrement => 0x08
  | .read => 0x0C
  | .enableWiperLock => 0x04
  | .disableWiperLock => dwl

/-- `d10 = d[9:0]`: the bits of a data value that ENC uses; bits 15:10 are discarded without error (R66). -/
def data10 (v : Half) : BitVec 10 :=
  v.extractLsb' 0 10

/-- Data bits 9:8, in bits 1:0 of the command byte (R66). -/
def dataHigh (v : Half) : Byte :=
  ((data10 v).extractLsb' 8 2).setWidth 8

/-- Data bits 7:0, the data byte (R66). -/
def dataLow (v : Half) : Byte :=
  (data10 v).extractLsb' 0 8

/-- The raw step count of `set_resistance` in its 16 and 32-bit arithmetic (R133, R134): the target capped at
`full_scale`, the product in 32 bits, the unsigned quotient. Used only when `full_scale` is not 0 (R135). -/
def scaleRaw (fullScale nBits target : Half) : Half :=
  let t1 : Half := if target ≤ fullScale then target else fullScale
  let p : BitVec 32 := t1.setWidth 32 * nBits.setWidth 32
  (p / fullScale.setWidth 32).setWidth 16

end Sys2Proof.Machine
end

