-- ==== Sys2Proof/Machine/Enc.lean ====
section
/-! DEFINITION. ENC: `compose` (41_compose.md R101) and ENC at its ports (R114). It holds no state (10_state.md R20). -/

namespace Sys2Proof.Machine

/-- `compose` for a given `DWL_POS` (R101, D7): an 8-bit accumulator, the address and command OR-ed in, the legality
check, then the data split. -/
def composeWith (dwl : Byte) (a : MemoryAddress) (c : Command) (d : Option Half) : Except EncError Frame :=
  let acc : Byte := 0x00
  let acc := acc ||| addrPos a
  let acc := acc ||| cmdPosWith dwl c
  if c = .write ∧ d = none then .error .invalidCombination
  else if c ≠ .write ∧ d ≠ none then .error .invalidCombination
  else
    match d with
    | some v => .ok { cmdByte := acc ||| dataHigh v, dataByte := some (dataLow v) }
    | none => .ok { cmdByte := acc, dataByte := none }

/-- `compose` (R100, R101) with the spec's `DWL_POS`. -/
def compose (a : MemoryAddress) (c : Command) (d : Option Half) : Except EncError Frame :=
  composeWith Config.dwlPos a c d

/-- The two bytes a frame puts on the wire, as one word (R65). -/
def wireWord (f : Frame) : Half :=
  f.cmdByte ++ f.dataByte.getD Config.filler

/-- The slot ENC reads: the port for DataEEPROM, nothing (zero) for every other kind (R93). -/
def slotRead {slotW : Nat} (p : EncPorts slotW) : Nat :=
  if p.addrKind = 6 then p.slot.toNat else 0

/-- What ENC answers at its ports, for a given `DWL_POS`: a frame, or the `status` of the first error in the order
IllegalSelector, OutOfRangeAddress, InvalidCombination (R114, R167). -/
def encAnswerWith {slotW : Nat} (dwl : Byte) (p : EncPorts slotW) : Except (BitVec 2) Frame :=
  match decodeCommand p.cmdSel with
  | .error _ => .error 3
  | .ok c =>
    match resolveAddress (decodeAddress p.addrKind p.slot) with
    | .error e => .error (encStatus e)
    | .ok a =>
      match composeWith dwl a c (decodeData p.dataPresent p.data) with
      | .error e => .error (encStatus e)
      | .ok f => .ok f

/-- ENC's output ports (R35, R114), for a given `DWL_POS`. Bytes that are not defined are free values, functions of the
inputs ENC reads. -/
def encPortsWith {slotW : Nat} (dwl : Byte) (p : EncPorts slotW) : EncOut :=
  let d := decodeData p.dataPresent p.data
  match encAnswerWith dwl p with
  | .error status =>
    { status := status
      cmdByte := Config.encCmdByte p.addrKind (slotRead p) p.cmdSel d
      dataValid := Config.encDataValid p.addrKind (slotRead p) p.cmdSel d
      dataByte := Config.encDataByte p.addrKind (slotRead p) p.cmdSel d }
  | .ok ⟨b, none⟩ =>
    { status := 0
      cmdByte := b
      dataValid := false
      dataByte := Config.encDataByte p.addrKind (slotRead p) p.cmdSel d }
  | .ok ⟨b, some x⟩ => { status := 0, cmdByte := b, dataValid := true, dataByte := x }

/-- ENC's output ports with the spec's `DWL_POS`. -/
def encPorts {slotW : Nat} (p : EncPorts slotW) : EncOut :=
  encPortsWith Config.dwlPos p

/-- ENC's outputs at every moment: the function of its current inputs, from power-on (R180). -/
def State.encOut (s : State) : EncOut :=
  encPorts s.encIn

end Sys2Proof.Machine
end

