-- ==== Sys2Proof/Machine/Ops.lean ====
section
/-! DEFINITION. CTRL's named operations: the primitives of 00_scope.md R15, construct, taking a fault
(60_exceptions.md R169), and the phase machine (42_controller.md R139, R142). -/

namespace Sys2Proof.Machine

/-! ## Primitives (R15): the only writers of the trace -/

/-- Append one event to the trace (R15, R27). -/
def State.emit (e : Event) (s : State) : State :=
  { s with trace := s.trace ++ [e] }

/-- `CsLow()` with `cs <- 0` (R139, R173). -/
def State.csLow (s : State) : State :=
  { s.emit .csLow with cs := 0 }

/-- `CsHigh()` with `cs <- 1` (R131, R139, R173). -/
def State.csHigh (s : State) : State :=
  { s.emit .csHigh with cs := 1 }

/-- `DelayMs(n)`: the event, and the request outstanding until `dly_done` (R38, R174). -/
def State.delayMs (n : Half) (s : State) : State :=
  { s.emit (.delayMs n) with pending := some (.delay n) }

/-- `Send(b)`: the event, and the request outstanding until `tx_ack` or `tx_err` (R38, R172). -/
def State.sendByte (b : Byte) (s : State) : State :=
  { s.emit (.send b) with pending := some (.send b) }

/-! ## Leaving a transaction, faults, construct -/

/-- Outside a transaction the latches hold any value (R31, 93_implementation_defined.md): free values. -/
def State.releaseLatches (s : State) : State :=
  { s with
    tx0 := Config.latchTx0 s.freeIdx
    tx1 := Config.latchTx1 s.freeIdx
    txHasData := Config.latchHasData s.freeIdx
    freeIdx := s.freeIdx + 1 }

/-- The level of `cs` a fault leaves: any value after TransportFailure, else unchanged (R143, R169). -/
def State.csAfterFault (k : CtrlError) (s : State) : BitVec 1 :=
  if k = .transportFailure then Config.csAfterTransportFailure s.freeIdx else s.cs

/-- Fault entry, `fault(k)` (R169): the code, phase Faulted, no event, no response; `cs` as `csAfterFault`. An
interrupted transaction ends: its latches hold any value and nothing is outstanding. -/
def State.takeFault (k : CtrlError) (s : State) : State :=
  { (if s.phase.busy then s.releaseLatches else s) with
    cs := s.csAfterFault k
    phase := .faulted
    faultCode := some k
    pending := none
    resp := none }

/-- `construct` (R131): a new handle, CTRL's reset (R181), and the only way out of Faulted (R170). The latches are
unspecified after it (R31). -/
def State.construct (fullScale nBits : Half) (s : State) : State :=
  { ({ s with fullScale := fullScale, nBits := nBits, faultCode := none } : State).csHigh.releaseLatches with
    phase := .idle
    pending := none
    resp := none }

/-! ## The transaction (R139) -/

/-- The start of a transaction: the latches written from the composed frame, then `CsLow`, Asserted (R139). -/
def State.beginTransaction (f : Frame) (s : State) : State :=
  { ({ s with
        tx0 := f.cmdByte
        txHasData := f.dataByte.isSome
        tx1 := f.dataByte.getD Config.filler } : State).csLow with
    phase := .asserted
    pending := none
    resp := none }

/-- The return value: `None` in the second place stands for the filler (R141). -/
def State.response (s : State) : Response :=
  { cmdByte := s.tx0, dataByte := if s.txHasData then some s.tx1 else none }

/-- The end of a transaction: `CsHigh`, Idle, `done` with the response (R139, R141). -/
def State.completeTransaction (s : State) : State :=
  { s.csHigh.releaseLatches with
    phase := .idle
    pending := none
    resp := some s.response }

/-- A byte has left: the next phase, nothing outstanding (R139, R142). -/
def State.byteSent (p : Phase) (s : State) : State :=
  { s with phase := p, pending := none }

/-- Issue the primitive a phase begins with, if it is not issued yet (R139): the settle delay of Asserted, the second
byte of ByteSent1, the settle delay of ByteSent2. -/
def State.issue (s : State) : State :=
  match s.phase, s.pending with
  | .asserted, none => s.delayMs Config.settleMs
  | .byteSent1, none => s.sendByte s.tx1
  | .byteSent2, none => s.delayMs Config.settleMs
  | _, _ => s

/-- A capability's answer to the outstanding request (R139, R142, R143). Any other answer has no transition (R142). -/
def State.takeAnswer (a : Answer) (s : State) : State :=
  match s.phase, s.pending, a with
  | .asserted, some (.delay _), .dlyDone => s.sendByte s.tx0
  | .asserted, some (.send _), .txAck => s.byteSent .byteSent1
  | .asserted, some (.send _), .txErr => s.takeFault .transportFailure
  | .byteSent1, some (.send _), .txAck => s.byteSent .byteSent2
  | .byteSent1, some (.send _), .txErr => s.takeFault .transportFailure
  | .byteSent2, some (.delay _), .dlyDone => s.completeTransaction
  | _, _, _ => s

/-- One input during a transaction (R142): an answer advances it, a request faults it with IllegalRequest (R145), a
construct replaces the handle (R131), the rest changes nothing in CTRL. An answer or a quiet moment finds the phase's
primitive issued; a request or construct may come before that (`notes/assumptions/6.md`). -/
def State.absorb (ev : Input) (s : State) : State :=
  match ev with
  | .construct fs n => s.construct fs n
  | .request _ => s.takeFault .illegalRequest
  | .encDrive p => { s with encIn := p }
  | .answer a => s.issue.takeAnswer a
  | .quiet => s.issue

/-- A transaction run over the inputs to come: until it leaves the busy phases (completed, faulted or replaced), or until
no input is left and it holds in its phase with a request outstanding (R144). The inputs after that point remain. -/
def drive : List Input → State → State
  | [], s => { s.issue with inputs := [] }
  | ev :: rest, s =>
    if (s.absorb ev).phase.busy then drive rest (s.absorb ev) else { s.absorb ev with inputs := rest }

/-- Request admission (R145): accepted only in Idle; IllegalRequest during a transaction; no effect in Faulted (R170);
refused before any construct (R182). -/
def State.whenIdle (s : State) (accepted : State → Result) : Result :=
  match s.phase with
  | .noHandle => .refused .noHandle
  | .idle => accepted s
  | .asserted => .next (s.takeFault .illegalRequest)
  | .byteSent1 => .next (s.takeFault .illegalRequest)
  | .byteSent2 => .next (s.takeFault .illegalRequest)
  | .faulted => .next s

end Sys2Proof.Machine
end

