-- ==== Sys2Proof/Machine/Controller.lean ====
section
/-! DEFINITION. CTRL's two request operations: `send_command` (42_controller.md R139) and `set_resistance` (R133). -/

namespace Sys2Proof.Machine

/-- `send_command` for a given `DWL_POS` (R138, R139, D7): admission, then the address is constructed and the frame composed before any
capability is touched, then one transaction over the inputs to come. -/
def sendCommandWith (dwl : Byte) (a : AddressOperand) (c : Command) (d : Option Half) (s : State) : Result :=
  s.whenIdle fun s =>
    match resolveAddress a with
    | .error e => .next (s.takeFault (encFault e))
    | .ok m =>
      match composeWith dwl m c d with
      | .error e => .next (s.takeFault (encFault e))
      | .ok f => .next (drive s.inputs (s.beginTransaction f))

/-- `send_command` with the spec's `DWL_POS`. -/
def sendCommand (a : AddressOperand) (c : Command) (d : Option Half) (s : State) : Result :=
  sendCommandWith Config.dwlPos a c d s

/-- An instruction as `send_command` of its Command and operands, for a given `DWL_POS`: a machine at another value than
the spec's (D7). At the spec's it is `exec`. -/
def execWith (dwl : Byte) (i : Instr) (s : State) : Result :=
  sendCommandWith dwl i.address i.command i.data s

/-- `set_resistance` (R133): admission, ScaleDivByZero when `full_scale` is 0 (R135), then Write of the scaled value to
VolatileWiper0. The frame of a Write does not depend on `DWL_POS` (R103). -/
def setResistance (target : Half) (s : State) : Result :=
  s.whenIdle fun s =>
    if s.fullScale = 0 then .next (s.takeFault .scaleDivByZero)
    else sendCommand .volatileWiper0 .write (some (scaleRaw s.fullScale s.nBits target)) s

end Sys2Proof.Machine
end

