-- ==== Sys2Proof/Machine/Commands.lean ====
section
/-! DEFINITION. The meanings of the six instructions: each is `send_command` (42_controller.md R139) of its Command. -/

namespace Sys2Proof.Machine

/-- WRITE: command byte `ADDR_POS(a) | v[9:8]`, data byte `v[7:0]`; data required (41_compose.md R103). -/
def execWrite (a : AddressOperand) (d : Option Half) (s : State) : Result :=
  sendCommand a .write d s

/-- INCR: command byte `ADDR_POS(a) | 0x04`, no data (R104). -/
def execIncr (a : AddressOperand) (d : Option Half) (s : State) : Result :=
  sendCommand a .increment d s

/-- DECR: command byte `ADDR_POS(a) | 0x08`, no data (R105). -/
def execDecr (a : AddressOperand) (d : Option Half) (s : State) : Result :=
  sendCommand a .decrement d s

/-- READ: command byte `ADDR_POS(a) | 0x0C`, no data; no reply is captured (R106, R147). -/
def execRead (a : AddressOperand) (d : Option Half) (s : State) : Result :=
  sendCommand a .read d s

/-- ENWL: command byte `ADDR_POS(a) | 0x04`, the same as INCR's, no data (R107). -/
def execEnwl (a : AddressOperand) (d : Option Half) (s : State) : Result :=
  sendCommand a .enableWiperLock d s

/-- DISWL: command byte `ADDR_POS(a) | DWL_POS`, no data (R108). -/
def execDiswl (a : AddressOperand) (d : Option Half) (s : State) : Result :=
  sendCommand a .disableWiperLock d s

end Sys2Proof.Machine
end

