-- ==== Sys2Proof/Machine/Dispatch.lean ====
section
/-! DEFINITION. The meaning of each instruction, one arm per row of spec/opcode_table.json. -/

namespace Sys2Proof.Machine

def exec (i : Instr) (s : State) : Host.Outcome State Fault Refusal :=
  match i with
  | .write a d => Sys2Proof.Machine.execWrite a d s
  | .incr a d => Sys2Proof.Machine.execIncr a d s
  | .decr a d => Sys2Proof.Machine.execDecr a d s
  | .read a d => Sys2Proof.Machine.execRead a d s
  | .enwl a d => Sys2Proof.Machine.execEnwl a d s
  | .diswl a d => Sys2Proof.Machine.execDiswl a d s

end Sys2Proof.Machine
end

