-- ==== Sys2Proof/Machine/Request.lean ====
section
/-! DEFINITION. How CTRL takes its next operation: the block fetches nothing (10_state.md R22); operations arrive at its
ports (R36, 42_controller.md R148), here as the head of `inputs`. -/

namespace Sys2Proof.Machine

/-- An input leaves the list when CTRL samples it; `done` is a strobe, so the response of the step before goes (R37,
`notes/assumptions/20.md`). -/
def State.sampled (rest : List Input) (s : State) : State :=
  { s with inputs := rest, resp := none }

/-- A request (R148), its instruction run by `run`: `req_op` 0 is `send_command` of the instruction on the ports, 1 is
`set_resistance`, 2 and 3 are IllegalRequest. Admission comes first (R167). -/
def runRequestBy {slotW : Nat} (run : Instr → State → Result) (r : RequestPorts slotW) (s : State) : Result :=
  if r.op = 0 then
    match decodeRequest r with
    | .ok i => run i s
    | .error _ => s.whenIdle fun s => .next (s.takeFault .illegalSelector)
  else if r.op = 1 then setResistance r.target s
  else s.whenIdle fun s => .next (s.takeFault .illegalRequest)

/-- A request on the block. -/
def runRequest {slotW : Nat} (r : RequestPorts slotW) (s : State) : Result :=
  runRequestBy exec r s

/-- An input that concerns only a transaction under way (R142): it goes on over this input and those after it; in any
other phase there is no transition. -/
def continueTransaction (ev : Input) (s : State) : State :=
  if s.phase.busy then drive (ev :: s.inputs) s else s

/-- The step on a sampled input, an instruction run by `run`. -/
def runInputBy (run : Instr → State → Result) (ev : Input) (s : State) : Result :=
  match ev with
  | .construct fs n => .next (s.construct fs n)
  | .request r => runRequestBy run r s
  | .encDrive p => .next { s with encIn := p }
  | .answer a => .next (continueTransaction (.answer a) s)
  | .quiet => .next (continueTransaction .quiet s)

/-- No input is left: CTRL holds (R144), or waits for an operation (R181). A phase whose primitive is not issued yet
issues it first. -/
def runNoInput (s : State) : Result :=
  if s.phase.busy then
    match s.pending with
    | none => .next s.issue
    | some (.delay _) => .fault .awaitingTimer
    | some (.send _) => .fault .awaitingTransport
  else .fault .awaitingInput

/-- One step of a machine that runs an instruction by `run`: the head of `inputs` is sampled and acted on. -/
def stepBy (run : Instr → State → Result) (s : State) : Result :=
  match s.inputs with
  | [] => runNoInput s
  | ev :: rest => runInputBy run ev (s.sampled rest)

/-- One step of the block at another `DWL_POS` than the spec's (R13, D7). -/
def stepWith (dwl : Byte) (s : State) : Result :=
  stepBy (execWith dwl) s

/-- The answers of capabilities that never fail, for one whole transaction (R172, R174). -/
def acknowledged : List Input :=
  [.answer .dlyDone, .answer .txAck, .answer .txAck, .answer .dlyDone]

/-- A request for an instruction, and the answers that let it complete. -/
def presented (i : Instr) : List Input :=
  .request (encodeRequest i) :: acknowledged

/-- The state in which the next step runs the instruction of a word of the opcode table: a handle in Idle with
chip-select high, and the request on the ports. A word that decodes to nothing presents nothing
(`notes/assumptions/15.md`). -/
def placeWord (s : State) (nbits w : Nat) : State :=
  match decodeTableWord nbits w with
  | some i => { s with phase := .idle, cs := 1, faultCode := none, pending := none, inputs := presented i }
  | none => { s with inputs := [] }

end Sys2Proof.Machine
end

