-- ==== Sys2Proof/Machine/Program.lean ====
section
/-! DEFINITION. Test programs (30_encoding.md R74 to R76): what HOST and capabilities that never fail do for each line, and
the words a program puts on the transport. The machine itself uses nothing of this file. -/

namespace Sys2Proof.Machine

/-- The `set_resistance` request (R36, R75, R148); the ports it does not read are zero (`notes/assumptions/24.md`). -/
def setresRequest (target : Half) : RequestPorts Config.slotW :=
  { op := 1, addrKind := 0, slot := 0, cmdSel := 0, dataPresent := false, data := 0, target := target }

/-- ENC's input ports for an instruction (R34, R92, R93, R113). -/
def encRequest (i : Instr) : EncPorts Config.slotW :=
  { addrKind := i.address.kind
    slot := i.address.slotPort Config.slotW
    cmdSel := i.command.selector
    dataPresent := i.data.isSome
    data := i.data.getD 0 }

/-- The inputs of one line, every `Send` acknowledged (R74; 95_test_vectors.md section 5). -/
def lineInputs : Line → List Input
  | .construct fs n => [.construct fs n]
  | .compose i => [.encDrive (encRequest i)]
  | .send i => presented i
  | .setres t => .request (setresRequest t) :: acknowledged

/-- The inputs of a program, line after line. -/
def programInputs (lines : List Line) : List Input :=
  lines.flatMap lineInputs

/-- At most `fuel` steps; the state at the first step that does not answer a next state. -/
def runFor : Nat → State → State
  | 0, s => s
  | fuel + 1, s =>
    match step s with
    | .next t => runFor fuel t
    | .fault _ => s
    | .refused _ => s

/-- The end state of a program from "no handle". Each step samples at least one input. -/
def runProgram (lines : List Line) : State :=
  runFor (programInputs lines).length { State.reset with inputs := programInputs lines }

/-- The wire words of a trace: each pair of consecutive `Send` events, first byte high (R65, R76). -/
def wireWords : List Event → List Half
  | .send b0 :: .send b1 :: rest => (b0 ++ b1) :: wireWords rest
  | .send _ :: rest => wireWords rest
  | .csLow :: rest => wireWords rest
  | .csHigh :: rest => wireWords rest
  | .delayMs _ :: rest => wireWords rest
  | [] => []

/-- The encoding of a program: the wire words its lines put on the transport, in order (R76). -/
def programEncoding (lines : List Line) : List Half :=
  wireWords (runProgram lines).trace

end Sys2Proof.Machine
end

