-- ==== Sys2Proof/Safety.lean ====
section
/-! DEFINITION. The terms of the claims: how an operation completes or faults, what holds of CTRL's registers in every
reachable state, and how a trace is framed by chip-select. -/

namespace Sys2Proof.Safety

open Sys2Proof.Machine

/-- The events of one completed transaction that sends `b0` then `b1` (42_controller.md R139, R140). -/
def transactionEvents (b0 b1 : Byte) : List Event :=
  [.csLow, .delayMs 1, .send b0, .send b1, .delayMs 1, .csHigh]

/-- What a transaction and a fault leave alone: the configuration and ENC's input ports. -/
def SameConfiguration (s t : State) : Prop :=
  t.fullScale = s.fullScale ∧ t.nBits = s.nBits ∧ t.encIn = s.encIn

/-- `t` is `s` after a completed transaction whose response is `(b0, ob1)`: six events appended, chip-select high, Idle,
`done`, the inputs `rest` still to come, everything else as before. The latches are not named: outside a transaction they
hold any value (R31). -/
def Completes (b0 : Byte) (ob1 : Option Byte) (rest : List Input) (s t : State) : Prop :=
  t.trace = s.trace ++ transactionEvents b0 (ob1.getD 0x00) ∧
  t.resp = some { cmdByte := b0, dataByte := ob1 } ∧
  t.phase = .idle ∧ t.cs = 1 ∧ t.pending = none ∧ t.inputs = rest ∧
  t.faultCode = s.faultCode ∧ SameConfiguration s t

/-- `t` is `s` after fault entry with code `k` and the events `events` performed before it (60_exceptions.md R169). The
level of `cs` is said apart: after TransportFailure it is any value. That nothing is outstanding is the model's choice
(`notes/assumptions/25.md`). -/
def Faults (k : CtrlError) (events : List Event) (rest : List Input) (s t : State) : Prop :=
  t.phase = .faulted ∧ t.faultCode = some k ∧ t.trace = s.trace ++ events ∧
  t.resp = none ∧ t.pending = none ∧ t.inputs = rest ∧ SameConfiguration s t

/-- `t` is `s` in a transaction of the frame `f`, held in phase `p` with the request `q` outstanding after the events
`events`: chip-select low, the latches as R139 writes them, no input left, everything else as before. -/
def Holds (f : Frame) (p : Phase) (q : CapRequest) (events : List Event) (s t : State) : Prop :=
  t.phase = p ∧ t.pending = some q ∧ t.trace = s.trace ++ events ∧ t.cs = 0 ∧
  t.tx0 = f.cmdByte ∧ t.tx1 = f.dataByte.getD 0x00 ∧ t.txHasData = f.dataByte.isSome ∧
  t.resp = none ∧ t.inputs = [] ∧ t.faultCode = s.faultCode ∧ SameConfiguration s t

/-- `t` is `s`, a transaction under way, after its end: the events `events` appended, chip-select high, Idle, `done` with
the bytes `s` had latched (R139, R141), the inputs `rest` still to come, everything else as before. -/
def Finishes (events : List Event) (rest : List Input) (s t : State) : Prop :=
  t.trace = s.trace ++ events ∧
  t.resp = some { cmdByte := s.tx0, dataByte := if s.txHasData then some s.tx1 else none } ∧
  t.phase = .idle ∧ t.cs = 1 ∧ t.pending = none ∧ t.inputs = rest ∧
  t.faultCode = s.faultCode ∧ SameConfiguration s t

/-- `t` is `s` after the events `events` and a `construct` of `fs` and `n` that ends them with its `CsHigh` (R131): a fresh
idle handle, the inputs `rest` still to come. -/
def FreshHandle (fs n : Half) (events : List Event) (rest : List Input) (s t : State) : Prop :=
  t.fullScale = fs ∧ t.nBits = n ∧ t.faultCode = none ∧ t.trace = s.trace ++ events ++ [.csHigh] ∧ t.cs = 1 ∧
  t.phase = .idle ∧ t.pending = none ∧ t.resp = none ∧ t.inputs = rest ∧ t.encIn = s.encIn

/-- The points of a transaction of the frame `f` at which an input of HOST can come: the inputs sampled before it and the
events performed before it. A phase whose request CTRL has not made yet and one that waits on it are points of their own
(`notes/assumptions/6.md`). -/
def transactionPoints (f : Frame) : List (List Input × List Event) :=
  [ ([], [.csLow]),
    ([.quiet], [.csLow, .delayMs 1]),
    ([.answer .dlyDone], [.csLow, .delayMs 1, .send f.cmdByte]),
    ([.answer .dlyDone, .answer .txAck], [.csLow, .delayMs 1, .send f.cmdByte]),
    ([.answer .dlyDone, .answer .txAck, .quiet],
      [.csLow, .delayMs 1, .send f.cmdByte, .send (f.dataByte.getD 0x00)]),
    ([.answer .dlyDone, .answer .txAck, .answer .txAck],
      [.csLow, .delayMs 1, .send f.cmdByte, .send (f.dataByte.getD 0x00)]),
    ([.answer .dlyDone, .answer .txAck, .answer .txAck, .quiet],
      [.csLow, .delayMs 1, .send f.cmdByte, .send (f.dataByte.getD 0x00), .delayMs 1]) ]

/-- A transaction after the inputs `sampled`, one at a time. -/
def absorbAll (sampled : List Input) (s : State) : State :=
  sampled.foldl (fun x ev => x.absorb ev) s

/-- Between transactions nothing changed but the inputs that were sampled and the `done` strobe. -/
def Unchanged (rest : List Input) (s t : State) : Prop :=
  t = { s with inputs := rest, resp := none }

/-! ## The invariant -/

/-- During a transaction the filler is latched when there is no data byte (R29, R139). -/
def FillerLatched (s : State) : Prop :=
  s.txHasData = false → s.tx1 = 0x00

/-- What CTRL's registers say of each other, phase by phase (R25, R26, R28, R139, R142, R169). That nothing is outstanding
in Faulted is the model's choice (`notes/assumptions/25.md`). -/
def RegistersAgree (s : State) : Prop :=
  match s.phase with
  | .noHandle => s.trace = [] ∧ s.pending = none ∧ s.resp = none
  | .idle => s.cs = 1 ∧ s.faultCode = none ∧ s.pending = none
  | .asserted =>
    s.cs = 0 ∧ s.faultCode = none ∧ s.resp = none ∧ FillerLatched s ∧
      (s.pending = none ∨ s.pending = some (.delay 1) ∨ s.pending = some (.send s.tx0))
  | .byteSent1 =>
    s.cs = 0 ∧ s.faultCode = none ∧ s.resp = none ∧ FillerLatched s ∧
      (s.pending = none ∨ s.pending = some (.send s.tx1))
  | .byteSent2 =>
    s.cs = 0 ∧ s.faultCode = none ∧ s.resp = none ∧ FillerLatched s ∧
      (s.pending = none ∨ s.pending = some (.delay 1))
  | .faulted =>
    s.pending = none ∧ s.resp = none ∧
      ∃ k, s.faultCode = some k ∧ (k ≠ .transportFailure → k ≠ .illegalRequest → s.cs = 1)

/-- Where a trace stands in the cycle of R139: before any event, deasserted, or so far into a transaction. -/
inductive Framing where
  | start
  | high
  | low
  | settled
  | sentOne
  | sentTwo
  | settledAgain
deriving DecidableEq, Repr

/-- One event in the cycle of R139; `CsHigh` may also come at any point, from a construct (R131, R142,
`notes/assumptions/13.md`). An event out of
its place has no successor. -/
def frameEvent : Option Framing → Event → Option Framing
  | some _, .csHigh => some .high
  | some .high, .csLow => some .low
  | some .low, .delayMs n => if n = 1 then some .settled else none
  | some .settled, .send _ => some .sentOne
  | some .sentOne, .send _ => some .sentTwo
  | some .sentTwo, .delayMs n => if n = 1 then some .settledAgain else none
  | _, _ => none

/-- Where a whole trace stands; `none` if some event is out of its place. -/
def framingOf (trace : List Event) : Option Framing :=
  trace.foldl frameEvent (some .start)

/-- The trace stands where the phase and the outstanding request say, a request being traced when it is made
(`notes/assumptions/5.md`); after a fault raised before any event of a
transaction, at the deasserted level. -/
def TraceFramed (s : State) : Prop :=
  match s.phase, s.pending with
  | .noHandle, _ => framingOf s.trace = some .start
  | .idle, _ => framingOf s.trace = some .high
  | .asserted, none => framingOf s.trace = some .low
  | .asserted, some (.delay _) => framingOf s.trace = some .settled
  | .asserted, some (.send _) => framingOf s.trace = some .sentOne
  | .byteSent1, none => framingOf s.trace = some .sentOne
  | .byteSent1, some _ => framingOf s.trace = some .sentTwo
  | .byteSent2, none => framingOf s.trace = some .sentTwo
  | .byteSent2, some _ => framingOf s.trace = some .settledAgain
  | .faulted, _ =>
    ∃ f, framingOf s.trace = some f ∧ f ≠ .start ∧
      (s.faultCode ≠ some .transportFailure → s.faultCode ≠ some .illegalRequest → f = .high)

/-- The invariant of the machine. -/
def CtrlInv (s : State) : Prop :=
  RegistersAgree s ∧ TraceFramed s

end Sys2Proof.Safety
end

