-- ==== Sys2Proof/Certificates/Slice0/Obligations.lean ====
section
/-! DEFINITION. The statements for the provers. Each says in its docstring which rule of spec/ it comes from; where a
clause is the model's own choice, the log entry. -/

open Sys2Proof Sys2Proof.Machine Sys2Proof.Safety

/-! ## Operands and ENC -/

/-- R90: the code of every address, and its position in bits 7:4. -/
def Obligations.AddressCodesArePositioned : Prop :=
  addrCode .volatileWiper0 = 0x0 ∧ addrCode .volatileWiper1 = 0x1 ∧
  addrCode .nonVolatileWiper0 = 0x2 ∧ addrCode .nonVolatileWiper1 = 0x3 ∧
  addrCode .volatileTCON = 0x4 ∧ addrCode .status = 0x5 ∧
  (∀ s : Fin 10, (addrCode (.dataEEPROM s)).toNat = 0x5 + s.val) ∧
  addrCode .wiperLock = 0xF ∧
  ∀ a, (addrPos a).toNat = (addrCode a).toNat * 16

/-- R109: the positioned code of every Command; DisableWiperLock's is `DWL_POS`, at the spec's 0x40 (log 17). -/
def Obligations.CommandCodesArePositioned : Prop :=
  cmdPosWith Config.dwlPos .write = 0x00 ∧ cmdPosWith Config.dwlPos .increment = 0x04 ∧
  cmdPosWith Config.dwlPos .decrement = 0x08 ∧ cmdPosWith Config.dwlPos .read = 0x0C ∧
  cmdPosWith Config.dwlPos .enableWiperLock = 0x04 ∧ cmdPosWith Config.dwlPos .disableWiperLock = 0x40

/-- R81: the validated constructor succeeds exactly on slots 0 to 9. -/
def Obligations.EepromSlotIsValidated : Prop :=
  ∀ slot : Nat,
    (∀ h : slot < 10, makeDataEEPROM slot = .ok (.dataEEPROM ⟨slot, h⟩)) ∧
    (10 ≤ slot → makeDataEEPROM slot = .error .outOfRangeAddress)

/-- R91: the two addresses with code 0x5 give the same result for every command and data; no other two addresses share a
code. -/
def Obligations.OnlyStatusAndSlotZeroShareACode : Prop :=
  (∀ c d, compose .status c d = compose (.dataEEPROM 0) c d) ∧
  ∀ a b, addrCode a = addrCode b →
    a = b ∨ (a = .status ∧ b = .dataEEPROM 0) ∨ (a = .dataEEPROM 0 ∧ b = .status)

/-- R102: compose succeeds exactly when the data presence is legal, and fails with InvalidCombination otherwise. -/
def Obligations.ComposeSucceedsExactlyWhenLegal : Prop :=
  ∀ (a : MemoryAddress) (c : Command) (d : Option Half),
    ((∃ f, compose a c d = .ok f) ↔ (c = .write ↔ d ≠ none)) ∧
    (¬(c = .write ↔ d ≠ none) → compose a c d = .error .invalidCombination)

/-- R103, R110: the frame of a Write in arithmetic of its operands; data above 1023 is masked. -/
def Obligations.WriteFrameSplitsTheData : Prop :=
  ∀ (a : MemoryAddress) (v : Half), ∃ b0 b1,
    compose a .write (some v) = .ok { cmdByte := b0, dataByte := some b1 } ∧
    b0.toNat = (addrCode a).toNat * 16 + v.toNat / 256 % 4 ∧
    b1.toNat = v.toNat % 256 ∧
    compose a .write (some (BitVec.ofNat 16 (v.toNat % 1024))) = compose a .write (some v)

/-- R104 to R107: the frames of the four commands without data whose code lies in bits 3:2. -/
def Obligations.DatalessFramesHoldAddressAndCode : Prop :=
  ∀ (a : MemoryAddress) (c : Command) (k : Nat),
    (c, k) ∈ [(Command.increment, 1), (Command.decrement, 2), (Command.read, 3), (Command.enableWiperLock, 1)] →
    ∃ b0, compose a c none = .ok { cmdByte := b0, dataByte := none } ∧
      b0.toNat = (addrCode a).toNat * 16 + k * 4

/-- R108: DisableWiperLock ORs `DWL_POS` into the positioned address, for every value of `DWL_POS`; at the spec's 0x40 (log
17) it sets bit 2 of the address code, leaves the low nibble zero, and codes that differ in bit 2 alone give one frame. -/
def Obligations.DisableWiperLockSetsAddressBitTwo : Prop :=
  (∀ (dwl : Byte) (a : MemoryAddress),
    composeWith dwl a .disableWiperLock none = .ok { cmdByte := addrPos a ||| dwl, dataByte := none }) ∧
  (∀ a : MemoryAddress, ∃ b0, compose a .disableWiperLock none = .ok { cmdByte := b0, dataByte := none } ∧
    b0.extractLsb' 4 4 = addrCode a ||| 0x4 ∧ b0.extractLsb' 0 4 = 0) ∧
  ∀ a b : MemoryAddress, addrCode b = addrCode a ^^^ 0x4 →
    compose a .disableWiperLock none = compose b .disableWiperLock none

/-- R69 item 1, R107: EnableWiperLock is Increment, as a frame and as a transaction. -/
def Obligations.EnableWiperLockIsIncrement : Prop :=
  (∀ a d, compose a .enableWiperLock d = compose a .increment d) ∧
  ∀ a d s, exec (.enwl a d) s = exec (.incr a d) s

/-- R111: for every command but DisableWiperLock the command byte reads back as address code, command code and data
bits 9:8. -/
def Obligations.CommandByteReadsBack : Prop :=
  ∀ (a : MemoryAddress) (c : Command) (d : Option Half) (f : Frame),
    c ≠ .disableWiperLock → compose a c d = .ok f →
    f.cmdByte.extractLsb' 4 4 = addrCode a ∧
    (f.cmdByte.extractLsb' 2 2).toNat * 4 = (cmdPosWith Config.dwlPos c).toNat ∧
    (f.cmdByte.extractLsb' 0 2).toNat = (d.getD 0).toNat / 256 % 4

/-- R92, R113: the selectors of the ports, for every `SLOT_W`. -/
def Obligations.SelectorsNameAddressesAndCommands : Prop :=
  (∀ (slotW : Nat) (slot : BitVec slotW),
    decodeAddress 0 slot = .volatileWiper0 ∧ decodeAddress 1 slot = .volatileWiper1 ∧
    decodeAddress 2 slot = .nonVolatileWiper0 ∧ decodeAddress 3 slot = .nonVolatileWiper1 ∧
    decodeAddress 4 slot = .volatileTCON ∧ decodeAddress 5 slot = .status ∧
    decodeAddress 6 slot = .dataEEPROM slot.toNat ∧ decodeAddress 7 slot = .wiperLock) ∧
  decodeCommand 0 = .ok .write ∧ decodeCommand 1 = .ok .increment ∧ decodeCommand 2 = .ok .decrement ∧
  decodeCommand 3 = .ok .read ∧ decodeCommand 4 = .ok .enableWiperLock ∧
  decodeCommand 5 = .ok .disableWiperLock ∧ decodeCommand 6 = .error .illegalSelector ∧
  decodeCommand 7 = .error .illegalSelector ∧
  ∀ (slotW : Nat) (p : EncPorts slotW), p.cmdSel = 6 ∨ p.cmdSel = 7 → (encPorts p).status = 3

/-- R114: ENC's port behaviour, in its order: IllegalSelector, OutOfRangeAddress, then compose; for every `SLOT_W` and
`DWL_POS` (the block's own are 4 and 0x40, log 17). -/
def Obligations.EncPortsFollowCompose : Prop :=
  ∀ (slotW : Nat) (dwl : Byte) (p : EncPorts slotW),
    (p.cmdSel = 6 ∨ p.cmdSel = 7 → (encPortsWith dwl p).status = 3) ∧
    (p.cmdSel ≠ 6 → p.cmdSel ≠ 7 → p.addrKind = 6 → 10 ≤ p.slot.toNat → (encPortsWith dwl p).status = 2) ∧
    (p.cmdSel ≠ 6 → p.cmdSel ≠ 7 → ¬(p.addrKind = 6 ∧ 10 ≤ p.slot.toNat) →
      ∃ c m, decodeCommand p.cmdSel = .ok c ∧ resolveAddress (decodeAddress p.addrKind p.slot) = .ok m ∧
        (composeWith dwl m c (if p.dataPresent then some p.data else none) = .error .invalidCombination →
          (encPortsWith dwl p).status = 1) ∧
        (∀ b,
          composeWith dwl m c (if p.dataPresent then some p.data else none) =
            .ok { cmdByte := b, dataByte := none } →
          (encPortsWith dwl p).status = 0 ∧ (encPortsWith dwl p).cmdByte = b ∧
            (encPortsWith dwl p).dataValid = false) ∧
        (∀ b x,
          composeWith dwl m c (if p.dataPresent then some p.data else none) =
            .ok { cmdByte := b, dataByte := some x } →
          encPortsWith dwl p = { status := 0, cmdByte := b, dataValid := true, dataByte := x }))

/-- R93: the slot port has no effect on any output unless `addr_kind` is 6, in ENC and in CTRL; for kind 6 slots 0 to 9
construct DataEEPROM(slot) and all others of the port raise OutOfRangeAddress, for every `SLOT_W`; an unbounded slot agrees
with the block's port on 0 to 15 and raises OutOfRangeAddress for every slot of 10 or more. -/
def Obligations.SlotIsReadOnlyForDataEeprom : Prop :=
  (∀ (slotW : Nat) (p : EncPorts slotW) (x : BitVec slotW), p.addrKind ≠ 6 →
    encPorts { p with slot := x } = encPorts p) ∧
  (∀ (slotW : Nat) (r : RequestPorts slotW) (x : BitVec slotW) (s : State), r.addrKind ≠ 6 →
    runRequest { r with slot := x } s = runRequest r s) ∧
  (∀ (slotW : Nat) (slot : BitVec slotW),
    (∀ h : slot.toNat < 10, resolveAddress (decodeAddress 6 slot) = .ok (.dataEEPROM ⟨slot.toNat, h⟩)) ∧
    (10 ≤ slot.toNat → resolveAddress (decodeAddress 6 slot) = .error .outOfRangeAddress)) ∧
  ∀ slot : Nat,
    (slot < 16 →
      resolveAddress (decodeAddress 6 (BitVec.ofNat Config.slotW slot)) = resolveAddress (.dataEEPROM slot)) ∧
    (10 ≤ slot → resolveAddress (.dataEEPROM slot) = .error .outOfRangeAddress)

/-- R20, R180: ENC's outputs are a function of its current inputs, whatever CTRL holds (for the bytes that R35 and R114
leave at any value this is log 10, a DEDUCED reading); driving them, an input of the model (log 16), changes nothing in CTRL
but the `done` strobe of the step before (log 20), and no step changes them unless HOST drives them among the inputs it
samples. -/
def Obligations.EncIsStateless : Prop :=
  (∀ s t : State, s.encIn = t.encIn → s.encOut = t.encOut) ∧
  (∀ (s : State) (p : EncPorts Config.slotW) (rest : List Input), s.inputs = .encDrive p :: rest →
    step s = .next { s with inputs := rest, resp := none, encIn := p }) ∧
  ∀ (s t : State) (sampled : List Input), step s = .next t → s.inputs = sampled ++ t.inputs →
    (∀ p, Input.encDrive p ∉ sampled) → t.encOut = s.encOut

/-! ## Encodings -/

/-- R92, R93, R113, R148: decoding the request ports of an instruction gives the instruction back, with every operand at
every value the ports admit: every slot that the slot port holds (0 to 15 on the block's, legal or not), for every `SLOT_W`.
The ports nobody reads are encoded as zero (log 24). -/
def Obligations.RequestDecodesBack : Prop :=
  ∀ (slotW : Nat) (i : Instr), i.address.fits slotW = true →
    decodeRequest (encodeRequest i : RequestPorts slotW) = .ok i

/-- R65, R68: the two wire bytes of a composed frame are the wire pattern of the instruction's row, for every `DWL_POS` (D7;
`compose` and `encodeWire` are these at the spec's 0x40, log 17). -/
def Obligations.ComposedFrameIsTheWirePattern : Prop :=
  ∀ (dwl : Byte) (i : Instr) (m : MemoryAddress) (f : Frame),
    resolveAddress i.address = .ok m → composeWith dwl m i.command i.data = .ok f →
    wireWord f = encodeWireWith dwl i

/-- R69: two legal instructions have one wire word exactly in the listed cases: the same code, command and d10; Increment
and EnableWiperLock at one code; DisableWiperLock at codes that differ in bit 2; DisableWiperLock and a Write of 0 to the
code with bit 2 set. At the spec's `DWL_POS` (log 17). -/
def Obligations.WireWordsCoincideOnlyAsListed : Prop :=
  ∀ i j : Instr, i.wf = true → j.wf = true →
    (encodeWire i = encodeWire j ↔
      (i.command = j.command ∧ i.address.wireCode = j.address.wireCode ∧
        data10 (i.data.getD 0) = data10 (j.data.getD 0)) ∨
      (i.command = .increment ∧ j.command = .enableWiperLock ∧ i.address.wireCode = j.address.wireCode) ∨
      (i.command = .enableWiperLock ∧ j.command = .increment ∧ i.address.wireCode = j.address.wireCode) ∨
      (i.command = .disableWiperLock ∧ j.command = .disableWiperLock ∧
        i.address.wireCode = j.address.wireCode ^^^ 0x4) ∨
      (i.command = .disableWiperLock ∧ j.command = .write ∧
        j.address.wireCode = i.address.wireCode ||| 0x4 ∧ data10 (j.data.getD 0) = 0) ∨
      (i.command = .write ∧ j.command = .disableWiperLock ∧
        i.address.wireCode = j.address.wireCode ||| 0x4 ∧ data10 (i.data.getD 0) = 0))

/-- Decoding the two bytes of a well-formed instruction answers an instruction with the same wire word, the reading of its
R69 class that the model chose (log 14, at the spec's `DWL_POS`, log 17), and leaves the bytes after it. At every `DWL_POS`
the wire decoder answers a well-formed instruction with the same wire word (D7). -/
def Obligations.WireDecodesToTheChosenReading : Prop :=
  (∀ (i : Instr) (rest : List Byte), i.wf = true →
    decode (encode i ++ rest) = .ok (i.wireReading, rest) ∧
    encodeWire i.wireReading = encodeWire i ∧ i.wireReading.wf = true) ∧
  ∀ (dwl : Byte) (i : Instr), i.wf = true →
    ∃ j, decodeWireWith dwl (encodeWireWith dwl i) = .ok j ∧
      encodeWireWith dwl j = encodeWireWith dwl i ∧ j.wf = true

/-- Whatever the wire decoder answers is a well-formed instruction whose wire word is the word decoded: no bit of a word
is dropped (R68); for every `DWL_POS` (D7; `decodeWire` is this at the spec's 0x40, log 17). -/
def Obligations.DecodedWireWordEncodesBack : Prop :=
  ∀ (dwl : Byte) (w : Half) (i : Instr), decodeWireWith dwl w = .ok i →
    encodeWireWith dwl i = w ∧ i.wf = true

/-- Words of spec/opcode_table.json and 95_test_vectors.md decode to instructions they stand for. Which one, where a word
stands for several (R69), is the model's choice (log 14): 0x1400 reads as INCR and not ENWL, 0x2155 as a Write of data with
bits 15:10 zero, 0xF000 as DISWL and not a Write of 0, at WiperLock and not DataEEPROM(6); 0xF000 is a DISWL word at the
spec's `DWL_POS` (log 17). -/
def Obligations.KnownWordsDecode : Prop :=
  decodeTableWord 16 0x2155 = some (.write .nonVolatileWiper0 (some 0x155)) ∧
  decodeTableWord 16 0x1400 = some (.incr .volatileWiper1 none) ∧
  decodeTableWord 16 0x1800 = some (.decr .volatileWiper1 none) ∧
  decodeTableWord 16 0x8C00 = some (.read (.dataEEPROM 3) none) ∧
  decodeTableWord 16 0xF000 = some (.diswl .wiperLock none) ∧
  decodeTableWord 16 0x0401 = none ∧
  decodeRequest ({ op := 0, addrKind := 2, slot := 0, cmdSel := 4, dataPresent := false, data := 0, target := 0 } :
      RequestPorts Config.slotW) =
    .ok (.enwl .nonVolatileWiper0 none)

/-! ## Steps -/

/-- R148: a `send_command` request whose ports decode to an instruction runs that instruction: the step is its `exec`
after the request is sampled (that the response of the step before goes with it is log 20). -/
def Obligations.StepRunsTheRequestedInstruction : Prop :=
  ∀ (s : State) (r : RequestPorts Config.slotW) (rest : List Input) (i : Instr),
    s.inputs = .request r :: rest → r.op = 0 → decodeRequest r = .ok i →
    step s = exec i { s with inputs := rest, resp := none }

/-- A word placed for the next step runs as the first instruction, with capabilities that answer (log 15); a word that
stands for several instructions runs as the one log 14 chooses. -/
def Obligations.PlacedWordRunsNext : Prop :=
  ∀ (s : State) (w : Nat) (i : Instr), decodeTableWord 16 w = some i →
    step (s.withFetchWord 16 w) =
      exec i { s with phase := .idle, cs := 1, faultCode := none, pending := none, resp := none,
                      inputs := acknowledged }

/-- R103, R139 to R141: WRITE with data, in Idle, with capabilities that answer, completes: the six events with the
address code, data bits 9:8 and data bits 7:0, the response, and nothing else changed. -/
def Obligations.WriteCompletes : Prop :=
  ∀ (a : AddressOperand) (m : MemoryAddress) (v : Half) (s : State) (rest : List Input),
    resolveAddress a = .ok m → s.phase = .idle → s.inputs = acknowledged ++ rest →
    ∃ t, exec (.write a (some v)) s = .next t ∧
      Completes (BitVec.ofNat 8 ((addrCode m).toNat * 16 + v.toNat / 256 % 4))
        (some (BitVec.ofNat 8 (v.toNat % 256))) rest s t

/-- R104 to R107, R139 to R141: INCR, DECR, READ and ENWL without data complete: the command byte, then the filler 0x00,
the response with no data byte, and nothing else changed. -/
def Obligations.DatalessCommandsComplete : Prop :=
  ∀ (a : AddressOperand) (m : MemoryAddress) (s : State) (rest : List Input),
    resolveAddress a = .ok m → s.phase = .idle → s.inputs = acknowledged ++ rest →
    (∃ t, exec (.incr a none) s = .next t ∧
      Completes (BitVec.ofNat 8 ((addrCode m).toNat * 16 + 0x04)) none rest s t) ∧
    (∃ t, exec (.decr a none) s = .next t ∧
      Completes (BitVec.ofNat 8 ((addrCode m).toNat * 16 + 0x08)) none rest s t) ∧
    (∃ t, exec (.read a none) s = .next t ∧
      Completes (BitVec.ofNat 8 ((addrCode m).toNat * 16 + 0x0C)) none rest s t) ∧
    (∃ t, exec (.enwl a none) s = .next t ∧
      Completes (BitVec.ofNat 8 ((addrCode m).toNat * 16 + 0x04)) none rest s t)

/-- R108, R139 to R141: DISWL without data completes: the positioned address with `DWL_POS` OR-ed in, at the spec's
`DWL_POS` = 0x40 (log 17) the address with bit 6 set, then the filler, the response with no data byte, and nothing else
changed. `OnlyDisableWiperLockReadsDwlPos` says it at every `DWL_POS`. -/
def Obligations.DisableWiperLockCompletes : Prop :=
  ∀ (a : AddressOperand) (m : MemoryAddress) (s : State) (rest : List Input),
    resolveAddress a = .ok m → s.phase = .idle → s.inputs = acknowledged ++ rest →
    ∃ t, exec (.diswl a none) s = .next t ∧
      Completes (BitVec.ofNat 8 ((addrCode m ||| 0x4).toNat * 16)) none rest s t

/-- R133, R75, R136: a `set_resistance` request in Idle with `full_scale` not 0 is the WRITE of the scaled value to
VolatileWiper0, whatever the capabilities then do (so every statement about that instruction is one about `set_resistance`;
that the response of the step before goes is log 20); and with capabilities that answer it completes, the scaled value being
`floor(min(target, full_scale) * n_bits / full_scale)`, masked to 10 bits (R137). -/
def Obligations.SetResistanceCompletes : Prop :=
  (∀ (r : RequestPorts Config.slotW) (s : State) (rest : List Input),
    r.op = 1 → s.phase = .idle → s.fullScale ≠ 0 → s.inputs = .request r :: rest →
    step s = exec (.write .volatileWiper0 (some (scaleRaw s.fullScale s.nBits r.target)))
      { s with inputs := rest, resp := none }) ∧
  ∀ (r : RequestPorts Config.slotW) (s : State) (rest : List Input) (raw : Nat),
    r.op = 1 → s.phase = .idle → s.fullScale ≠ 0 →
    s.inputs = .request r :: (acknowledged ++ rest) →
    raw = min r.target.toNat s.fullScale.toNat * s.nBits.toNat / s.fullScale.toNat →
    ∃ t, step s = .next t ∧
      Completes (BitVec.ofNat 8 (raw / 256 % 4)) (some (BitVec.ofNat 8 (raw % 256))) rest s t

/-- R134: the 16 and 32-bit arithmetic of the scaling is exact: the floor of the unbounded quotient, at most `n_bits`. -/
def Obligations.ScalingIsExact : Prop :=
  ∀ fs n t : Half, fs ≠ 0 →
    (scaleRaw fs n t).toNat = min t.toNat fs.toNat * n.toNat / fs.toNat ∧
    (scaleRaw fs n t).toNat ≤ n.toNat

/-- R131, R142, R181: construct, in any phase or none: the arguments stored, no fault, one `CsHigh`, chip-select high, Idle.
The first clause is a construct at the head of a step; the second one that comes within an instruction, at each point of its
transaction, to which it puts an end (the points: logs 5, 6, 28). That the event is appended to the trace there was and that
an outstanding request is dropped are log 13; that no response stands after it is log 20. -/
def Obligations.ConstructMakesAFreshHandle : Prop :=
  (∀ (s : State) (fs n : Half) (rest : List Input), s.inputs = .construct fs n :: rest →
    ∃ t, step s = .next t ∧ FreshHandle fs n [] rest s t) ∧
  ∀ (i : Instr) (m : MemoryAddress) (f : Frame) (s : State) (fs n : Half) (sampled rest : List Input)
    (events : List Event),
    resolveAddress i.address = .ok m → compose m i.command i.data = .ok f → s.phase = .idle →
    (sampled, events) ∈ transactionPoints f → s.inputs = sampled ++ .construct fs n :: rest →
    ∃ t, exec i s = .next t ∧ FreshHandle fs n events rest s t

/-! ## Faults -/

/-- R138, R161: a legal address with an illegal data presence faults with InvalidCombination before any event, with
chip-select untouched; every instruction. That no request stands after a fault is log 25. -/
def Obligations.IllegalCombinationFaults : Prop :=
  ∀ (i : Instr) (s : State), i.address.inRange = true → i.wf = false → s.phase = .idle →
    ∃ t, exec i s = .next t ∧ Faults .invalidCombination [] s.inputs s t ∧ t.cs = s.cs

/-- R162, R167: a slot of 10 or more faults with OutOfRangeAddress before any event, whatever the data; every
instruction. That no request stands after a fault is log 25. -/
def Obligations.OutOfRangeSlotFaults : Prop :=
  ∀ (i : Instr) (s : State), i.address.inRange = false → s.phase = .idle →
    ∃ t, exec i s = .next t ∧ Faults .outOfRangeAddress [] s.inputs s t ∧ t.cs = s.cs

/-- R148, R163, R166: in Idle, `req_cmd_sel` 6 or 7 faults with IllegalSelector whatever the address and data, and
`req_op` 2 or 3 with IllegalRequest, both before any event. That no request stands after a fault is log 25. -/
def Obligations.IllegalPortsFault : Prop :=
  ∀ (r : RequestPorts Config.slotW) (s : State) (rest : List Input), s.inputs = .request r :: rest → s.phase = .idle →
    (r.op = 0 → r.cmdSel = 6 ∨ r.cmdSel = 7 →
      ∃ t, step s = .next t ∧ Faults .illegalSelector [] rest s t ∧ t.cs = s.cs) ∧
    (r.op = 2 ∨ r.op = 3 → ∃ t, step s = .next t ∧ Faults .illegalRequest [] rest s t ∧ t.cs = s.cs)

/-- R135, R164: `set_resistance` with `full_scale` 0 faults with ScaleDivByZero before any event. That no request stands
after a fault is log 25. -/
def Obligations.ZeroFullScaleFaults : Prop :=
  ∀ (r : RequestPorts Config.slotW) (s : State) (rest : List Input), s.inputs = .request r :: rest → s.phase = .idle →
    r.op = 1 → s.fullScale = 0 →
    ∃ t, step s = .next t ∧ Faults .scaleDivByZero [] rest s t ∧ t.cs = s.cs

/-- R145, R169: any request during a transaction faults with IllegalRequest and leaves chip-select as it is, both at the
head of a step (of a transaction held before it) and within an instruction, at each point of its transaction (the points:
logs 5, 6, 28), where chip-select stays low; that the outstanding capability request is withdrawn is log 25. In Faulted a
request is sampled and has no effect (log 29; that the `done` strobe of the step before goes is log 20); before any construct
it is refused (log 30). -/
def Obligations.RequestsAreAcceptedOnlyInIdle : Prop :=
  (∀ (r : RequestPorts Config.slotW) (s : State) (rest : List Input), s.inputs = .request r :: rest →
    (s.phase = .asserted ∨ s.phase = .byteSent1 ∨ s.phase = .byteSent2 →
      ∃ t, step s = .next t ∧ Faults .illegalRequest [] rest s t ∧ t.cs = s.cs) ∧
    (s.phase = .faulted → ∃ t, step s = .next t ∧ t = { s with inputs := rest, resp := t.resp }) ∧
    (s.phase = .noHandle → step s = .refused .noHandle)) ∧
  ∀ (i : Instr) (m : MemoryAddress) (f : Frame) (r : RequestPorts Config.slotW) (s : State)
    (sampled rest : List Input) (events : List Event),
    resolveAddress i.address = .ok m → compose m i.command i.data = .ok f → s.phase = .idle →
    (sampled, events) ∈ transactionPoints f → s.inputs = sampled ++ .request r :: rest →
    ∃ t, exec i s = .next t ∧ Faults .illegalRequest events rest s t ∧ t.cs = 0

/-- R143, R165: a transport failure on the first or the second byte faults with TransportFailure after exactly the events
up to the failed `Send`: no retry, no further event, no response. Nothing is said of `cs`. That no request stands after a
fault is log 25. -/
def Obligations.TransportFailureFaults : Prop :=
  ∀ (i : Instr) (m : MemoryAddress) (f : Frame) (s : State) (rest : List Input),
    resolveAddress i.address = .ok m → compose m i.command i.data = .ok f → s.phase = .idle →
    (s.inputs = [.answer .dlyDone, .answer .txErr] ++ rest →
      ∃ t, exec i s = .next t ∧
        Faults .transportFailure [.csLow, .delayMs 1, .send f.cmdByte] rest s t) ∧
    (s.inputs = [.answer .dlyDone, .answer .txAck, .answer .txErr] ++ rest →
      ∃ t, exec i s = .next t ∧
        Faults .transportFailure [.csLow, .delayMs 1, .send f.cmdByte, .send (f.dataByte.getD 0x00)] rest s t)

/-- R142, R169, R170, R190: Faulted is sticky: no step but a construct leaves it, and until then its code, the trace, the
configuration, chip-select and the outstanding handshake stay as they are. After TransportFailure the spec leaves
chip-select at any value (R143); that the level it then has stays is the model's choice (log 9). -/
def Obligations.FaultIsSticky : Prop :=
  ∀ s t : State, s.phase = .faulted → step s = .next t →
    (∃ fs n rest, s.inputs = .construct fs n :: rest) ∨
    (t.phase = .faulted ∧ t.faultCode = s.faultCode ∧ t.trace = s.trace ∧ t.cs = s.cs ∧
      t.fullScale = s.fullScale ∧ t.nBits = s.nBits ∧ t.pending = s.pending)

/-- R144: a timer or a transport that never answers holds CTRL in its current phase, at each of the four waits of a
transaction: after the instruction the request stands, the latches hold the frame (R29, R139), chip-select is low, and the
machine has no step. Any number of quiet moments (log 28) changes nothing in this, neither within the instruction nor in a
step of the held state (the `done` strobe is 0 already; log 20); with no input left a phase that has not made its request
makes it first, as in a quiet moment (log 3). That the request waited on is already in the trace is log
5. -/
def Obligations.SilentCapabilityHolds : Prop :=
  (∀ (i : Instr) (m : MemoryAddress) (f : Frame) (s : State) (n : Nat),
    resolveAddress i.address = .ok m → compose m i.command i.data = .ok f → s.phase = .idle →
    (s.inputs = List.replicate n .quiet →
      ∃ t, exec i s = .next t ∧ Holds f .asserted (.delay 1) [.csLow, .delayMs 1] s t ∧
        step t = .fault .awaitingTimer) ∧
    (s.inputs = [.answer .dlyDone] ++ List.replicate n .quiet →
      ∃ t, exec i s = .next t ∧
        Holds f .asserted (.send f.cmdByte) [.csLow, .delayMs 1, .send f.cmdByte] s t ∧
        step t = .fault .awaitingTransport) ∧
    (s.inputs = [.answer .dlyDone, .answer .txAck] ++ List.replicate n .quiet →
      ∃ t, exec i s = .next t ∧
        Holds f .byteSent1 (.send (f.dataByte.getD 0x00))
          [.csLow, .delayMs 1, .send f.cmdByte, .send (f.dataByte.getD 0x00)] s t ∧
        step t = .fault .awaitingTransport) ∧
    (s.inputs = [.answer .dlyDone, .answer .txAck, .answer .txAck] ++ List.replicate n .quiet →
      ∃ t, exec i s = .next t ∧
        Holds f .byteSent2 (.delay 1)
          [.csLow, .delayMs 1, .send f.cmdByte, .send (f.dataByte.getD 0x00), .delayMs 1] s t ∧
        step t = .fault .awaitingTimer)) ∧
  (∀ (s : State) (q : CapRequest) (n : Nat), s.phase.busy = true → s.pending = some q →
    s.inputs = List.replicate (n + 1) .quiet → step s = .next { s with inputs := [], resp := none }) ∧
  ∀ s : State, s.phase.busy = true → s.pending = none → s.inputs = [] → step s = .next (s.absorb .quiet)

/-- R144, R142: a transaction held at any of its four waits (the states of `SilentCapabilityHolds`) goes on when the answers
come, to completion. The request waited on was traced when it was made (log 5), so its event is not among those appended.
A request or a construct ends a hold too (R142): `RequestsAreAcceptedOnlyInIdle`, `ConstructMakesAFreshHandle`. -/
def Obligations.HeldTransactionGoesOn : Prop :=
  ∀ (s : State) (ms : Half) (b : Byte) (rest : List Input),
    (s.phase = .asserted → s.pending = some (.delay ms) →
      s.inputs = [.answer .dlyDone, .answer .txAck, .answer .txAck, .answer .dlyDone] ++ rest →
      ∃ t, step s = .next t ∧ Finishes [.send s.tx0, .send s.tx1, .delayMs 1, .csHigh] rest s t) ∧
    (s.phase = .asserted → s.pending = some (.send b) →
      s.inputs = [.answer .txAck, .answer .txAck, .answer .dlyDone] ++ rest →
      ∃ t, step s = .next t ∧ Finishes [.send s.tx1, .delayMs 1, .csHigh] rest s t) ∧
    (s.phase = .byteSent1 → s.pending = some (.send b) →
      s.inputs = [.answer .txAck, .answer .dlyDone] ++ rest →
      ∃ t, step s = .next t ∧ Finishes [.delayMs 1, .csHigh] rest s t) ∧
    (s.phase = .byteSent2 → s.pending = some (.delay ms) → s.inputs = [.answer .dlyDone] ++ rest →
      ∃ t, step s = .next t ∧ Finishes [.csHigh] rest s t)

/-- R142: the rows of the phase table for a transaction under way, on the operation that absorbs one input of it: the
answers of the capabilities, with the phase's request already outstanding or still to be made, a request, a construct, and,
which change nothing in CTRL, new values on ENC's ports (log 16) and a quiet moment (log 28). An event enters the trace when
CTRL makes the request, where R142 lists it at the transition (log 5). An answer to a request that is not outstanding changes
nothing (log 12). That a fault or a construct withdraws the outstanding request is logs 25 and 13. -/
def Obligations.PhaseTableRows : Prop :=
  ∀ (s : State) (ms : Half) (b : Byte),
    (s.phase = .asserted ∨ s.phase = .byteSent1 ∨ s.phase = .byteSent2 →
      (∀ r, Faults .illegalRequest [] s.inputs s (s.absorb (.request r)) ∧ (s.absorb (.request r)).cs = s.cs) ∧
      (∀ fs n, FreshHandle fs n [] s.inputs s (s.absorb (.construct fs n))) ∧
      (∀ p, s.absorb (.encDrive p) = { s with encIn := p }) ∧
      (∀ q, s.pending = some q → s.absorb .quiet = s)) ∧
    (s.phase = .asserted → s.pending = none →
      (s.absorb .quiet).phase = .asserted ∧ (s.absorb .quiet).pending = some (.delay 1) ∧
      (s.absorb .quiet).trace = s.trace ++ [.delayMs 1]) ∧
    (s.phase = .byteSent1 → s.pending = none →
      (s.absorb .quiet).phase = .byteSent1 ∧ (s.absorb .quiet).pending = some (.send s.tx1) ∧
      (s.absorb .quiet).trace = s.trace ++ [.send s.tx1]) ∧
    (s.phase = .byteSent2 → s.pending = none →
      (s.absorb .quiet).phase = .byteSent2 ∧ (s.absorb .quiet).pending = some (.delay 1) ∧
      (s.absorb .quiet).trace = s.trace ++ [.delayMs 1]) ∧
    (s.phase = .asserted → s.pending = none →
      (s.absorb (.answer .dlyDone)).phase = .asserted ∧
      (s.absorb (.answer .dlyDone)).pending = some (.send s.tx0) ∧
      (s.absorb (.answer .dlyDone)).trace = s.trace ++ [.delayMs 1, .send s.tx0]) ∧
    (s.phase = .asserted → s.pending = some (.delay ms) →
      (s.absorb (.answer .dlyDone)).phase = .asserted ∧
      (s.absorb (.answer .dlyDone)).pending = some (.send s.tx0) ∧
      (s.absorb (.answer .dlyDone)).trace = s.trace ++ [.send s.tx0] ∧
      s.absorb (.answer .txAck) = s ∧ s.absorb (.answer .txErr) = s) ∧
    (s.phase = .asserted → s.pending = some (.send b) →
      (s.absorb (.answer .txAck)).phase = .byteSent1 ∧ (s.absorb (.answer .txAck)).trace = s.trace ∧
      (s.absorb (.answer .txErr)).phase = .faulted ∧ (s.absorb (.answer .txErr)).trace = s.trace ∧
      (s.absorb (.answer .txErr)).faultCode = some .transportFailure ∧
      s.absorb (.answer .dlyDone) = s) ∧
    (s.phase = .byteSent1 → s.pending = none →
      (s.absorb (.answer .txAck)).phase = .byteSent2 ∧
      (s.absorb (.answer .txAck)).trace = s.trace ++ [.send s.tx1] ∧
      (s.absorb (.answer .txErr)).phase = .faulted ∧
      (s.absorb (.answer .txErr)).trace = s.trace ++ [.send s.tx1] ∧
      (s.absorb (.answer .txErr)).faultCode = some .transportFailure) ∧
    (s.phase = .byteSent1 → s.pending = some (.send b) →
      (s.absorb (.answer .txAck)).phase = .byteSent2 ∧ (s.absorb (.answer .txAck)).trace = s.trace ∧
      (s.absorb (.answer .txErr)).phase = .faulted ∧ (s.absorb (.answer .txErr)).trace = s.trace ∧
      (s.absorb (.answer .txErr)).faultCode = some .transportFailure ∧
      s.absorb (.answer .dlyDone) = s) ∧
    (s.phase = .byteSent2 → s.pending = none →
      (s.absorb (.answer .dlyDone)).phase = .idle ∧ (s.absorb (.answer .dlyDone)).cs = 1 ∧
      (s.absorb (.answer .dlyDone)).trace = s.trace ++ [.delayMs 1, .csHigh] ∧
      (s.absorb (.answer .dlyDone)).resp =
        some { cmdByte := s.tx0, dataByte := if s.txHasData then some s.tx1 else none }) ∧
    (s.phase = .byteSent2 → s.pending = some (.delay ms) →
      (s.absorb (.answer .dlyDone)).phase = .idle ∧ (s.absorb (.answer .dlyDone)).cs = 1 ∧
      (s.absorb (.answer .dlyDone)).trace = s.trace ++ [.csHigh] ∧
      (s.absorb (.answer .dlyDone)).resp =
        some { cmdByte := s.tx0, dataByte := if s.txHasData then some s.tx1 else none } ∧
      s.absorb (.answer .txAck) = s ∧ s.absorb (.answer .txErr) = s)

/-- R142: every combination not in the phase table has no transition. Read so for an answer nobody asked for and for a
moment without a strobe, between transactions (logs 12 and 28); the `done` strobe goes (log 20). With no input at all the
block waits for an operation (R181; the stuck reason is log 3). -/
def Obligations.UnaskedAnswersHaveNoTransition : Prop :=
  ∀ (s : State) (rest : List Input), s.phase = .noHandle ∨ s.phase = .idle ∨ s.phase = .faulted →
    (∀ a, s.inputs = .answer a :: rest → ∃ t, step s = .next t ∧ Unchanged rest s t) ∧
    (s.inputs = .quiet :: rest → ∃ t, step s = .next t ∧ Unchanged rest s t) ∧
    (s.inputs = [] → step s = .fault .awaitingInput)

/-! ## The whole machine -/

/-- R25, R26, R28, R30, R37, R38, R160: the output ports as functions of the registers, and the codes of the fault and of
the phase, of a handle (before any construct R31 leaves every register open). -/
def Obligations.StatusOutputsFollowRegisters : Prop :=
  ∀ s : State, s.phase ≠ .noHandle →
    (s.ctrlOut.busy = true ↔ s.phase = .asserted ∨ s.phase = .byteSent1 ∨ s.phase = .byteSent2) ∧
    (s.ctrlOut.faulted = true ↔ s.phase = .faulted) ∧
    (s.ctrlOut.faultCode = 0 ↔ s.faultCode = none) ∧
    (s.ctrlOut.faultCode = 1 ↔ s.faultCode = some .invalidCombination) ∧
    (s.ctrlOut.faultCode = 2 ↔ s.faultCode = some .outOfRangeAddress) ∧
    (s.ctrlOut.faultCode = 3 ↔ s.faultCode = some .illegalSelector) ∧
    (s.ctrlOut.faultCode = 4 ↔ s.faultCode = some .scaleDivByZero) ∧
    (s.ctrlOut.faultCode = 5 ↔ s.faultCode = some .transportFailure) ∧
    (s.ctrlOut.faultCode = 6 ↔ s.faultCode = some .illegalRequest) ∧
    (s.phase.code = some 0 ↔ s.phase = .idle) ∧ (s.phase.code = some 1 ↔ s.phase = .asserted) ∧
    (s.phase.code = some 2 ↔ s.phase = .byteSent1) ∧ (s.phase.code = some 3 ↔ s.phase = .byteSent2) ∧
    (s.phase.code = some 4 ↔ s.phase = .faulted) ∧
    s.ctrlOut.faultCode.toNat < 7 ∧
    s.ctrlOut.csN = s.cs ∧
    (s.ctrlOut.done = true ↔ s.resp ≠ none) ∧
    (∀ r, s.resp = some r → s.ctrlOut.respCmdByte = r.cmdByte ∧
      s.ctrlOut.respDataValid = r.dataByte.isSome ∧ ∀ x, r.dataByte = some x → s.ctrlOut.respDataByte = x) ∧
    (s.ctrlOut.txReq = true ↔ ∃ b, s.pending = some (.send b)) ∧
    (∀ b, s.pending = some (.send b) → s.ctrlOut.txByte = b) ∧
    (s.ctrlOut.dlyReq = true ↔ ∃ n, s.pending = some (.delay n)) ∧
    (∀ n, s.pending = some (.delay n) → s.ctrlOut.dlyMs = n)

/-- R27: the trace only grows; no step removes or changes an event. -/
def Obligations.TraceOnlyGrows : Prop :=
  ∀ s t : State, step s = .next t → ∃ events, t.trace = s.trace ++ events

/-- R23, R24, R132: nothing but a construct writes `full_scale` or `n_bits`: a step that samples no construct leaves them,
whatever stands among the inputs after those it samples. -/
def Obligations.ConfigurationIsImmutable : Prop :=
  ∀ (s t : State) (sampled : List Input), step s = .next t → s.inputs = sampled ++ t.inputs →
    (∀ fs n, Input.construct fs n ∉ sampled) → t.fullScale = s.fullScale ∧ t.nBits = s.nBits

/-- R182: before any construct no instruction runs: each is refused (log 30). -/
def Obligations.NoHandleRefusesEveryInstruction : Prop :=
  ∀ (i : Instr) (s : State), s.phase = .noHandle → exec i s = .refused .noHandle

/-- R136: a `set_resistance` request never faults with InvalidCombination or OutOfRangeAddress. -/
def Obligations.SetResistanceNeverMiscomposes : Prop :=
  ∀ (r : RequestPorts Config.slotW) (s t : State) (rest : List Input),
    s.inputs = .request r :: rest → r.op = 1 → s.phase = .idle → step s = .next t → t.phase = .faulted →
    t.faultCode = some .scaleDivByZero ∨ t.faultCode = some .transportFailure ∨ t.faultCode = some .illegalRequest

/-- The invariant holds at power-on: no handle, an empty trace, nothing outstanding (R182; that nothing is outstanding and no
response stands are the model's values, logs 7 and 20). -/
def Obligations.InvariantHoldsAtReset : Prop :=
  CtrlInv State.reset

/-- Every step keeps the invariant. CTRL's registers agree phase by phase: chip-select is high in Idle, low during a
transaction, high after a fault with codes 1 to 4, and nothing is said of it after codes 5 and 6 (R25, R28, R139, R142,
R169); that nothing is outstanding in Faulted is the model's choice (log 25). The trace is framed by chip-select (R139,
R188), a request being traced when it is made (log 5), and a construct appending its `CsHigh` at any point (log 13). -/
def Obligations.StepKeepsTheInvariant : Prop :=
  ∀ s t : State, CtrlInv s → step s = .next t → CtrlInv t

/-- R48, R140, R141: whatever the environment does short of a new construct among the inputs it samples, a legal instruction
in Idle appends a beginning of its six events and nothing else; it is back in Idle exactly when it appended all six, and
then answers the bytes it sent; otherwise it is faulted or holds. -/
def Obligations.TransactionIsAllOrAPrefix : Prop :=
  ∀ (i : Instr) (m : MemoryAddress) (f : Frame) (s t : State) (sampled : List Input),
    resolveAddress i.address = .ok m → compose m i.command i.data = .ok f → s.phase = .idle →
    exec i s = .next t → s.inputs = sampled ++ t.inputs → (∀ fs n, Input.construct fs n ∉ sampled) →
    ∃ events, t.trace = s.trace ++ events ∧
      events <+: transactionEvents f.cmdByte (f.dataByte.getD 0x00) ∧
      (t.phase = .idle ↔ events = transactionEvents f.cmdByte (f.dataByte.getD 0x00)) ∧
      (t.phase = .idle → t.cs = 1 ∧ t.resp = some { cmdByte := f.cmdByte, dataByte := f.dataByte }) ∧
      (t.phase ≠ .idle → t.resp = none ∧ (t.phase = .faulted ∨ (t.phase.busy = true ∧ t.inputs = [])))

/-- R50: what an instruction does on the capabilities depends only on the request and the answers: from two idle states
with the same inputs to come, whatever else they hold, the same events are appended and the same response is given. -/
def Obligations.EventsDependOnlyOnTheRequest : Prop :=
  ∀ (i : Instr) (s₁ s₂ t₁ t₂ : State), s₁.phase = .idle → s₂.phase = .idle → s₁.inputs = s₂.inputs →
    exec i s₁ = .next t₁ → exec i s₂ = .next t₂ →
    (∃ events, t₁.trace = s₁.trace ++ events ∧ t₂.trace = s₂.trace ++ events) ∧
    t₁.phase = t₂.phase ∧ t₁.resp = t₂.resp ∧ t₁.pending = t₂.pending ∧ t₁.inputs = t₂.inputs

/-- The inputs are sampled in order, from the head, and a step samples at least one if there is any (the model's choice, log
3): the `sampled` of the statements above is there in every step and every instruction. -/
def Obligations.InputsAreSampledInOrder : Prop :=
  (∀ s t : State, step s = .next t →
    ∃ sampled, s.inputs = sampled ++ t.inputs ∧ (s.inputs ≠ [] → sampled ≠ [])) ∧
  ∀ (i : Instr) (s t : State), exec i s = .next t → ∃ sampled, s.inputs = sampled ++ t.inputs

/-- R73, R74, R81, R93: a slot of 10 or more can be written in a program and fails when the address is constructed, however
large it is: its `send` faults with OutOfRangeAddress before any event, and its `compose` gives status 2 and no event. A slot
that the slot port cannot hold is presented as the largest it has (log 31); that no request stands after a fault is log
25. -/
def Obligations.WrittenSlotsOfTenOrMoreFail : Prop :=
  ∀ (i : Instr) (s : State) (rest : List Input), i.address.inRange = false →
    (s.phase = .idle → s.inputs = lineInputs (.send i) ++ rest →
      ∃ t, step s = .next t ∧ Faults .outOfRangeAddress [] (acknowledged ++ rest) s t ∧ t.cs = s.cs) ∧
    (s.inputs = lineInputs (.compose i) ++ rest →
      ∃ t, step s = .next t ∧ t.encOut.status = 2 ∧ t.trace = s.trace ∧ t.inputs = rest)

/-- R13, R108, D7: `DWL_POS` is configuration. The block is the machine at the spec's value (log 17); no instruction but
DISWL depends on it; and at every value DISWL completes with the positioned address OR `DWL_POS` as its command byte. -/
def Obligations.OnlyDisableWiperLockReadsDwlPos : Prop :=
  (∀ (i : Instr) (s : State), execWith Config.dwlPos i s = exec i s) ∧
  (∀ s : State, stepWith Config.dwlPos s = step s) ∧
  (∀ (dwl : Byte) (i : Instr) (s : State), i.command ≠ .disableWiperLock → execWith dwl i s = exec i s) ∧
  ∀ (dwl : Byte) (a : AddressOperand) (m : MemoryAddress) (s : State) (rest : List Input),
    resolveAddress a = .ok m → s.phase = .idle → s.inputs = acknowledged ++ rest →
    ∃ t, execWith dwl (.diswl a none) s = .next t ∧ Completes (addrPos m ||| dwl) none rest s t

/-- R139, R142: a legal instruction in Idle runs its transaction over the inputs to come, one at a time and in order, each as
`PhaseTableRows` says, from `CsLow` in Asserted with the frame latched to the first input that ends it (log 4); if none does,
it holds with the request of its phase made (log 5). A transaction held before goes on in the same way. -/
def Obligations.TransactionAbsorbsItsInputs : Prop :=
  (∀ (i : Instr) (m : MemoryAddress) (f : Frame) (s : State),
    resolveAddress i.address = .ok m → compose m i.command i.data = .ok f → s.phase = .idle →
    ∃ b, b.phase = .asserted ∧ b.pending = none ∧ b.trace = s.trace ++ [.csLow] ∧ b.cs = 0 ∧ b.tx0 = f.cmdByte ∧
      b.tx1 = f.dataByte.getD 0x00 ∧ b.txHasData = f.dataByte.isSome ∧ b.resp = none ∧ SameConfiguration s b ∧
      exec i s = .next (drive s.inputs b)) ∧
  (∀ (s : State) (ev : Input) (rest : List Input), s.phase.busy = true → s.inputs = ev :: rest →
    (∃ a, ev = .answer a) ∨ ev = .quiet →
    step s = .next (drive s.inputs { s with inputs := rest, resp := none })) ∧
  ∀ (s : State) (ev : Input) (sampled rest : List Input),
    (∀ earlier, earlier <+: sampled → (absorbAll earlier s).phase.busy = true) →
    (((absorbAll sampled s).absorb ev).phase.busy = false →
      drive (sampled ++ ev :: rest) s = { (absorbAll sampled s).absorb ev with inputs := rest }) ∧
    drive sampled s = { (absorbAll sampled s).issue with inputs := [] }
end

