-- ==== Sys2Proof/Laws/State.lean ====
section
/-! SUPPORT. What each update of the state leaves in each field: one lemma per field per update, so that no proof unfolds a
record update. Of `takeFault` the latches are not said: they hold any value after it. -/

namespace Sys2Proof.Machine

/-! ## State.emit -/

@[simp] theorem State.emit_fullScale (e : Event) (s : State) : (s.emit e).fullScale = s.fullScale := rfl

@[simp] theorem State.emit_nBits (e : Event) (s : State) : (s.emit e).nBits = s.nBits := rfl

@[simp] theorem State.emit_cs (e : Event) (s : State) : (s.emit e).cs = s.cs := rfl

@[simp] theorem State.emit_phase (e : Event) (s : State) : (s.emit e).phase = s.phase := rfl

@[simp] theorem State.emit_faultCode (e : Event) (s : State) : (s.emit e).faultCode = s.faultCode := rfl

@[simp] theorem State.emit_tx0 (e : Event) (s : State) : (s.emit e).tx0 = s.tx0 := rfl

@[simp] theorem State.emit_tx1 (e : Event) (s : State) : (s.emit e).tx1 = s.tx1 := rfl

@[simp] theorem State.emit_txHasData (e : Event) (s : State) : (s.emit e).txHasData = s.txHasData := rfl

@[simp] theorem State.emit_trace (e : Event) (s : State) : (s.emit e).trace = s.trace ++ [e] := rfl

@[simp] theorem State.emit_pending (e : Event) (s : State) : (s.emit e).pending = s.pending := rfl

@[simp] theorem State.emit_resp (e : Event) (s : State) : (s.emit e).resp = s.resp := rfl

@[simp] theorem State.emit_encIn (e : Event) (s : State) : (s.emit e).encIn = s.encIn := rfl

@[simp] theorem State.emit_inputs (e : Event) (s : State) : (s.emit e).inputs = s.inputs := rfl

@[simp] theorem State.emit_freeIdx (e : Event) (s : State) : (s.emit e).freeIdx = s.freeIdx := rfl

/-! ## State.csLow -/

@[simp] theorem State.csLow_fullScale (s : State) : (s.csLow).fullScale = s.fullScale := rfl

@[simp] theorem State.csLow_nBits (s : State) : (s.csLow).nBits = s.nBits := rfl

@[simp] theorem State.csLow_cs (s : State) : (s.csLow).cs = 0 := rfl

@[simp] theorem State.csLow_phase (s : State) : (s.csLow).phase = s.phase := rfl

@[simp] theorem State.csLow_faultCode (s : State) : (s.csLow).faultCode = s.faultCode := rfl

@[simp] theorem State.csLow_tx0 (s : State) : (s.csLow).tx0 = s.tx0 := rfl

@[simp] theorem State.csLow_tx1 (s : State) : (s.csLow).tx1 = s.tx1 := rfl

@[simp] theorem State.csLow_txHasData (s : State) : (s.csLow).txHasData = s.txHasData := rfl

@[simp] theorem State.csLow_trace (s : State) : (s.csLow).trace = s.trace ++ [.csLow] := rfl

@[simp] theorem State.csLow_pending (s : State) : (s.csLow).pending = s.pending := rfl

@[simp] theorem State.csLow_resp (s : State) : (s.csLow).resp = s.resp := rfl

@[simp] theorem State.csLow_encIn (s : State) : (s.csLow).encIn = s.encIn := rfl

@[simp] theorem State.csLow_inputs (s : State) : (s.csLow).inputs = s.inputs := rfl

@[simp] theorem State.csLow_freeIdx (s : State) : (s.csLow).freeIdx = s.freeIdx := rfl

/-! ## State.csHigh -/

@[simp] theorem State.csHigh_fullScale (s : State) : (s.csHigh).fullScale = s.fullScale := rfl

@[simp] theorem State.csHigh_nBits (s : State) : (s.csHigh).nBits = s.nBits := rfl

@[simp] theorem State.csHigh_cs (s : State) : (s.csHigh).cs = 1 := rfl

@[simp] theorem State.csHigh_phase (s : State) : (s.csHigh).phase = s.phase := rfl

@[simp] theorem State.csHigh_faultCode (s : State) : (s.csHigh).faultCode = s.faultCode := rfl

@[simp] theorem State.csHigh_tx0 (s : State) : (s.csHigh).tx0 = s.tx0 := rfl

@[simp] theorem State.csHigh_tx1 (s : State) : (s.csHigh).tx1 = s.tx1 := rfl

@[simp] theorem State.csHigh_txHasData (s : State) : (s.csHigh).txHasData = s.txHasData := rfl

@[simp] theorem State.csHigh_trace (s : State) : (s.csHigh).trace = s.trace ++ [.csHigh] := rfl

@[simp] theorem State.csHigh_pending (s : State) : (s.csHigh).pending = s.pending := rfl

@[simp] theorem State.csHigh_resp (s : State) : (s.csHigh).resp = s.resp := rfl

@[simp] theorem State.csHigh_encIn (s : State) : (s.csHigh).encIn = s.encIn := rfl

@[simp] theorem State.csHigh_inputs (s : State) : (s.csHigh).inputs = s.inputs := rfl

@[simp] theorem State.csHigh_freeIdx (s : State) : (s.csHigh).freeIdx = s.freeIdx := rfl

/-! ## State.delayMs -/

@[simp] theorem State.delayMs_fullScale (n : Half) (s : State) : (s.delayMs n).fullScale = s.fullScale := rfl

@[simp] theorem State.delayMs_nBits (n : Half) (s : State) : (s.delayMs n).nBits = s.nBits := rfl

@[simp] theorem State.delayMs_cs (n : Half) (s : State) : (s.delayMs n).cs = s.cs := rfl

@[simp] theorem State.delayMs_phase (n : Half) (s : State) : (s.delayMs n).phase = s.phase := rfl

@[simp] theorem State.delayMs_faultCode (n : Half) (s : State) : (s.delayMs n).faultCode = s.faultCode := rfl

@[simp] theorem State.delayMs_tx0 (n : Half) (s : State) : (s.delayMs n).tx0 = s.tx0 := rfl

@[simp] theorem State.delayMs_tx1 (n : Half) (s : State) : (s.delayMs n).tx1 = s.tx1 := rfl

@[simp] theorem State.delayMs_txHasData (n : Half) (s : State) : (s.delayMs n).txHasData = s.txHasData := rfl

@[simp] theorem State.delayMs_trace (n : Half) (s : State) : (s.delayMs n).trace = s.trace ++ [.delayMs n] := rfl

@[simp] theorem State.delayMs_pending (n : Half) (s : State) : (s.delayMs n).pending = some (.delay n) := rfl

@[simp] theorem State.delayMs_resp (n : Half) (s : State) : (s.delayMs n).resp = s.resp := rfl

@[simp] theorem State.delayMs_encIn (n : Half) (s : State) : (s.delayMs n).encIn = s.encIn := rfl

@[simp] theorem State.delayMs_inputs (n : Half) (s : State) : (s.delayMs n).inputs = s.inputs := rfl

@[simp] theorem State.delayMs_freeIdx (n : Half) (s : State) : (s.delayMs n).freeIdx = s.freeIdx := rfl

/-! ## State.sendByte -/

@[simp] theorem State.sendByte_fullScale (b : Byte) (s : State) : (s.sendByte b).fullScale = s.fullScale := rfl

@[simp] theorem State.sendByte_nBits (b : Byte) (s : State) : (s.sendByte b).nBits = s.nBits := rfl

@[simp] theorem State.sendByte_cs (b : Byte) (s : State) : (s.sendByte b).cs = s.cs := rfl

@[simp] theorem State.sendByte_phase (b : Byte) (s : State) : (s.sendByte b).phase = s.phase := rfl

@[simp] theorem State.sendByte_faultCode (b : Byte) (s : State) : (s.sendByte b).faultCode = s.faultCode := rfl

@[simp] theorem State.sendByte_tx0 (b : Byte) (s : State) : (s.sendByte b).tx0 = s.tx0 := rfl

@[simp] theorem State.sendByte_tx1 (b : Byte) (s : State) : (s.sendByte b).tx1 = s.tx1 := rfl

@[simp] theorem State.sendByte_txHasData (b : Byte) (s : State) : (s.sendByte b).txHasData = s.txHasData := rfl

@[simp] theorem State.sendByte_trace (b : Byte) (s : State) : (s.sendByte b).trace = s.trace ++ [.send b] := rfl

@[simp] theorem State.sendByte_pending (b : Byte) (s : State) : (s.sendByte b).pending = some (.send b) := rfl

@[simp] theorem State.sendByte_resp (b : Byte) (s : State) : (s.sendByte b).resp = s.resp := rfl

@[simp] theorem State.sendByte_encIn (b : Byte) (s : State) : (s.sendByte b).encIn = s.encIn := rfl

@[simp] theorem State.sendByte_inputs (b : Byte) (s : State) : (s.sendByte b).inputs = s.inputs := rfl

@[simp] theorem State.sendByte_freeIdx (b : Byte) (s : State) : (s.sendByte b).freeIdx = s.freeIdx := rfl

/-! ## State.releaseLatches -/

@[simp] theorem State.releaseLatches_fullScale (s : State) : (s.releaseLatches).fullScale = s.fullScale := rfl

@[simp] theorem State.releaseLatches_nBits (s : State) : (s.releaseLatches).nBits = s.nBits := rfl

@[simp] theorem State.releaseLatches_cs (s : State) : (s.releaseLatches).cs = s.cs := rfl

@[simp] theorem State.releaseLatches_phase (s : State) : (s.releaseLatches).phase = s.phase := rfl

@[simp] theorem State.releaseLatches_faultCode (s : State) : (s.releaseLatches).faultCode = s.faultCode := rfl

@[simp] theorem State.releaseLatches_tx0 (s : State) : (s.releaseLatches).tx0 = Config.latchTx0 s.freeIdx := rfl

@[simp] theorem State.releaseLatches_tx1 (s : State) : (s.releaseLatches).tx1 = Config.latchTx1 s.freeIdx := rfl

@[simp] theorem State.releaseLatches_txHasData (s : State) : (s.releaseLatches).txHasData = Config.latchHasData s.freeIdx := rfl

@[simp] theorem State.releaseLatches_trace (s : State) : (s.releaseLatches).trace = s.trace := rfl

@[simp] theorem State.releaseLatches_pending (s : State) : (s.releaseLatches).pending = s.pending := rfl

@[simp] theorem State.releaseLatches_resp (s : State) : (s.releaseLatches).resp = s.resp := rfl

@[simp] theorem State.releaseLatches_encIn (s : State) : (s.releaseLatches).encIn = s.encIn := rfl

@[simp] theorem State.releaseLatches_inputs (s : State) : (s.releaseLatches).inputs = s.inputs := rfl

@[simp] theorem State.releaseLatches_freeIdx (s : State) : (s.releaseLatches).freeIdx = s.freeIdx + 1 := rfl

/-! ## State.construct -/

@[simp] theorem State.construct_fullScale (fs n : Half) (s : State) : (s.construct fs n).fullScale = fs := rfl

@[simp] theorem State.construct_nBits (fs n : Half) (s : State) : (s.construct fs n).nBits = n := rfl

@[simp] theorem State.construct_cs (fs n : Half) (s : State) : (s.construct fs n).cs = 1 := rfl

@[simp] theorem State.construct_phase (fs n : Half) (s : State) : (s.construct fs n).phase = .idle := rfl

@[simp] theorem State.construct_faultCode (fs n : Half) (s : State) : (s.construct fs n).faultCode = none := rfl

@[simp] theorem State.construct_tx0 (fs n : Half) (s : State) : (s.construct fs n).tx0 = Config.latchTx0 s.freeIdx := rfl

@[simp] theorem State.construct_tx1 (fs n : Half) (s : State) : (s.construct fs n).tx1 = Config.latchTx1 s.freeIdx := rfl

@[simp] theorem State.construct_txHasData (fs n : Half) (s : State) : (s.construct fs n).txHasData = Config.latchHasData s.freeIdx := rfl

@[simp] theorem State.construct_trace (fs n : Half) (s : State) : (s.construct fs n).trace = s.trace ++ [.csHigh] := rfl

@[simp] theorem State.construct_pending (fs n : Half) (s : State) : (s.construct fs n).pending = none := rfl

@[simp] theorem State.construct_resp (fs n : Half) (s : State) : (s.construct fs n).resp = none := rfl

@[simp] theorem State.construct_encIn (fs n : Half) (s : State) : (s.construct fs n).encIn = s.encIn := rfl

@[simp] theorem State.construct_inputs (fs n : Half) (s : State) : (s.construct fs n).inputs = s.inputs := rfl

@[simp] theorem State.construct_freeIdx (fs n : Half) (s : State) : (s.construct fs n).freeIdx = s.freeIdx + 1 := rfl

/-! ## State.beginTransaction -/

@[simp] theorem State.beginTransaction_fullScale (f : Frame) (s : State) : (s.beginTransaction f).fullScale = s.fullScale := rfl

@[simp] theorem State.beginTransaction_nBits (f : Frame) (s : State) : (s.beginTransaction f).nBits = s.nBits := rfl

@[simp] theorem State.beginTransaction_cs (f : Frame) (s : State) : (s.beginTransaction f).cs = 0 := rfl

@[simp] theorem State.beginTransaction_phase (f : Frame) (s : State) : (s.beginTransaction f).phase = .asserted := rfl

@[simp] theorem State.beginTransaction_faultCode (f : Frame) (s : State) : (s.beginTransaction f).faultCode = s.faultCode := rfl

@[simp] theorem State.beginTransaction_tx0 (f : Frame) (s : State) : (s.beginTransaction f).tx0 = f.cmdByte := rfl

@[simp] theorem State.beginTransaction_tx1 (f : Frame) (s : State) : (s.beginTransaction f).tx1 = f.dataByte.getD Config.filler := rfl

@[simp] theorem State.beginTransaction_txHasData (f : Frame) (s : State) : (s.beginTransaction f).txHasData = f.dataByte.isSome := rfl

@[simp] theorem State.beginTransaction_trace (f : Frame) (s : State) : (s.beginTransaction f).trace = s.trace ++ [.csLow] := rfl

@[simp] theorem State.beginTransaction_pending (f : Frame) (s : State) : (s.beginTransaction f).pending = none := rfl

@[simp] theorem State.beginTransaction_resp (f : Frame) (s : State) : (s.beginTransaction f).resp = none := rfl

@[simp] theorem State.beginTransaction_encIn (f : Frame) (s : State) : (s.beginTransaction f).encIn = s.encIn := rfl

@[simp] theorem State.beginTransaction_inputs (f : Frame) (s : State) : (s.beginTransaction f).inputs = s.inputs := rfl

@[simp] theorem State.beginTransaction_freeIdx (f : Frame) (s : State) : (s.beginTransaction f).freeIdx = s.freeIdx := rfl

/-! ## State.completeTransaction -/

@[simp] theorem State.completeTransaction_fullScale (s : State) : (s.completeTransaction).fullScale = s.fullScale := rfl

@[simp] theorem State.completeTransaction_nBits (s : State) : (s.completeTransaction).nBits = s.nBits := rfl

@[simp] theorem State.completeTransaction_cs (s : State) : (s.completeTransaction).cs = 1 := rfl

@[simp] theorem State.completeTransaction_phase (s : State) : (s.completeTransaction).phase = .idle := rfl

@[simp] theorem State.completeTransaction_faultCode (s : State) : (s.completeTransaction).faultCode = s.faultCode := rfl

@[simp] theorem State.completeTransaction_tx0 (s : State) : (s.completeTransaction).tx0 = Config.latchTx0 s.freeIdx := rfl

@[simp] theorem State.completeTransaction_tx1 (s : State) : (s.completeTransaction).tx1 = Config.latchTx1 s.freeIdx := rfl

@[simp] theorem State.completeTransaction_txHasData (s : State) : (s.completeTransaction).txHasData = Config.latchHasData s.freeIdx := rfl

@[simp] theorem State.completeTransaction_trace (s : State) : (s.completeTransaction).trace = s.trace ++ [.csHigh] := rfl

@[simp] theorem State.completeTransaction_pending (s : State) : (s.completeTransaction).pending = none := rfl

@[simp] theorem State.completeTransaction_resp (s : State) : (s.completeTransaction).resp = some s.response := rfl

@[simp] theorem State.completeTransaction_encIn (s : State) : (s.completeTransaction).encIn = s.encIn := rfl

@[simp] theorem State.completeTransaction_inputs (s : State) : (s.completeTransaction).inputs = s.inputs := rfl

@[simp] theorem State.completeTransaction_freeIdx (s : State) : (s.completeTransaction).freeIdx = s.freeIdx + 1 := rfl

/-! ## State.byteSent -/

@[simp] theorem State.byteSent_fullScale (p : Phase) (s : State) : (s.byteSent p).fullScale = s.fullScale := rfl

@[simp] theorem State.byteSent_nBits (p : Phase) (s : State) : (s.byteSent p).nBits = s.nBits := rfl

@[simp] theorem State.byteSent_cs (p : Phase) (s : State) : (s.byteSent p).cs = s.cs := rfl

@[simp] theorem State.byteSent_phase (p : Phase) (s : State) : (s.byteSent p).phase = p := rfl

@[simp] theorem State.byteSent_faultCode (p : Phase) (s : State) : (s.byteSent p).faultCode = s.faultCode := rfl

@[simp] theorem State.byteSent_tx0 (p : Phase) (s : State) : (s.byteSent p).tx0 = s.tx0 := rfl

@[simp] theorem State.byteSent_tx1 (p : Phase) (s : State) : (s.byteSent p).tx1 = s.tx1 := rfl

@[simp] theorem State.byteSent_txHasData (p : Phase) (s : State) : (s.byteSent p).txHasData = s.txHasData := rfl

@[simp] theorem State.byteSent_trace (p : Phase) (s : State) : (s.byteSent p).trace = s.trace := rfl

@[simp] theorem State.byteSent_pending (p : Phase) (s : State) : (s.byteSent p).pending = none := rfl

@[simp] theorem State.byteSent_resp (p : Phase) (s : State) : (s.byteSent p).resp = s.resp := rfl

@[simp] theorem State.byteSent_encIn (p : Phase) (s : State) : (s.byteSent p).encIn = s.encIn := rfl

@[simp] theorem State.byteSent_inputs (p : Phase) (s : State) : (s.byteSent p).inputs = s.inputs := rfl

@[simp] theorem State.byteSent_freeIdx (p : Phase) (s : State) : (s.byteSent p).freeIdx = s.freeIdx := rfl

/-! ## State.sampled -/

@[simp] theorem State.sampled_fullScale (rest : List Input) (s : State) : (s.sampled rest).fullScale = s.fullScale := rfl

@[simp] theorem State.sampled_nBits (rest : List Input) (s : State) : (s.sampled rest).nBits = s.nBits := rfl

@[simp] theorem State.sampled_cs (rest : List Input) (s : State) : (s.sampled rest).cs = s.cs := rfl

@[simp] theorem State.sampled_phase (rest : List Input) (s : State) : (s.sampled rest).phase = s.phase := rfl

@[simp] theorem State.sampled_faultCode (rest : List Input) (s : State) : (s.sampled rest).faultCode = s.faultCode := rfl

@[simp] theorem State.sampled_tx0 (rest : List Input) (s : State) : (s.sampled rest).tx0 = s.tx0 := rfl

@[simp] theorem State.sampled_tx1 (rest : List Input) (s : State) : (s.sampled rest).tx1 = s.tx1 := rfl

@[simp] theorem State.sampled_txHasData (rest : List Input) (s : State) : (s.sampled rest).txHasData = s.txHasData := rfl

@[simp] theorem State.sampled_trace (rest : List Input) (s : State) : (s.sampled rest).trace = s.trace := rfl

@[simp] theorem State.sampled_pending (rest : List Input) (s : State) : (s.sampled rest).pending = s.pending := rfl

@[simp] theorem State.sampled_resp (rest : List Input) (s : State) : (s.sampled rest).resp = none := rfl

@[simp] theorem State.sampled_encIn (rest : List Input) (s : State) : (s.sampled rest).encIn = s.encIn := rfl

@[simp] theorem State.sampled_inputs (rest : List Input) (s : State) : (s.sampled rest).inputs = rest := rfl

@[simp] theorem State.sampled_freeIdx (rest : List Input) (s : State) : (s.sampled rest).freeIdx = s.freeIdx := rfl

/-! ## State.takeFault -/

@[simp] theorem State.takeFault_fullScale (k : CtrlError) (s : State) : (s.takeFault k).fullScale = s.fullScale := by
  unfold State.takeFault; split <;> rfl

@[simp] theorem State.takeFault_nBits (k : CtrlError) (s : State) : (s.takeFault k).nBits = s.nBits := by
  unfold State.takeFault; split <;> rfl

@[simp] theorem State.takeFault_cs (k : CtrlError) (s : State) : (s.takeFault k).cs = s.csAfterFault k := rfl

@[simp] theorem State.takeFault_phase (k : CtrlError) (s : State) : (s.takeFault k).phase = .faulted := rfl

@[simp] theorem State.takeFault_faultCode (k : CtrlError) (s : State) : (s.takeFault k).faultCode = some k := rfl

@[simp] theorem State.takeFault_trace (k : CtrlError) (s : State) : (s.takeFault k).trace = s.trace := by
  unfold State.takeFault; split <;> rfl

@[simp] theorem State.takeFault_pending (k : CtrlError) (s : State) : (s.takeFault k).pending = none := rfl

@[simp] theorem State.takeFault_resp (k : CtrlError) (s : State) : (s.takeFault k).resp = none := rfl

@[simp] theorem State.takeFault_encIn (k : CtrlError) (s : State) : (s.takeFault k).encIn = s.encIn := by
  unfold State.takeFault; split <;> rfl

@[simp] theorem State.takeFault_inputs (k : CtrlError) (s : State) : (s.takeFault k).inputs = s.inputs := by
  unfold State.takeFault; split <;> rfl

end Sys2Proof.Machine
end

