-- ==== Sys2Proof/Laws/Ops.lean ====
section
/-! SUPPORT. What each shared operation can do, said once: admission, composition, the inputs of a transaction, a
transaction as a whole, and the step. Proofs cite these and do not unfold the operations. -/

namespace Sys2Proof.Machine

open Sys2Proof.Safety

/-! ## Phases -/

theorem Phase.busy_iff (p : Phase) : p.busy = true ↔ p = .asserted ∨ p = .byteSent1 ∨ p = .byteSent2 := by
  cases p <;> simp [Phase.busy]

theorem Phase.not_busy_iff (p : Phase) : p.busy = false ↔ p = .noHandle ∨ p = .idle ∨ p = .faulted := by
  cases p <;> simp [Phase.busy]

/-! ## Operands and composition -/

theorem resolveAddress_inRange {a : AddressOperand} (h : a.inRange = true) : ∃ m, resolveAddress a = .ok m := by
  cases a with
  | dataEEPROM slot =>
    have hs : slot < 10 := of_decide_eq_true h
    exact ⟨.dataEEPROM ⟨slot, hs⟩, by simp [resolveAddress, makeDataEEPROM, hs]⟩
  | _ => exact ⟨_, rfl⟩

theorem resolveAddress_outOfRange {a : AddressOperand} (h : a.inRange = false) :
    resolveAddress a = .error .outOfRangeAddress := by
  cases a with
  | dataEEPROM slot =>
    have hs : ¬ slot < 10 := of_decide_eq_false h
    simp [resolveAddress, makeDataEEPROM, hs]
  | _ => simp [AddressOperand.inRange] at h

/-- The frame of a Write with data, whatever `DWL_POS`. -/
theorem composeWith_write (dwl : Byte) (a : MemoryAddress) (v : Half) :
    composeWith dwl a .write (some v) = .ok ⟨addrPos a ||| dataHigh v, some (dataLow v)⟩ := by
  simp [composeWith, cmdPosWith]

/-- The frame of a command without data. -/
theorem composeWith_dataless (dwl : Byte) (a : MemoryAddress) {c : Command} (h : c ≠ .write) :
    composeWith dwl a c none = .ok ⟨addrPos a ||| cmdPosWith dwl c, none⟩ := by
  simp [composeWith, h]

/-! ## Admission -/

theorem whenIdle_idle {s : State} {k : State → Result} (h : s.phase = .idle) : s.whenIdle k = k s := by
  simp [State.whenIdle, h]

theorem whenIdle_noHandle {s : State} {k : State → Result} (h : s.phase = .noHandle) :
    s.whenIdle k = .refused .noHandle := by
  simp [State.whenIdle, h]

theorem whenIdle_faulted {s : State} {k : State → Result} (h : s.phase = .faulted) : s.whenIdle k = .next s := by
  simp [State.whenIdle, h]

theorem whenIdle_busy {s : State} {k : State → Result} (h : s.phase.busy = true) :
    s.whenIdle k = .next (s.takeFault .illegalRequest) := by
  rcases (Phase.busy_iff _).mp h with h | h | h <;> simp [State.whenIdle, h]

/-- Everything admission can answer. -/
theorem whenIdle_next {s t : State} {k : State → Result} (h : s.whenIdle k = .next t) :
    (s.phase = .idle ∧ k s = .next t) ∨ (s.phase = .faulted ∧ t = s) ∨
      (s.phase.busy = true ∧ t = s.takeFault .illegalRequest) := by
  cases hp : s.phase <;> simp only [State.whenIdle, hp] at h
  · cases h
  · exact .inl ⟨rfl, h⟩
  · exact .inr (.inr ⟨rfl, by simpa using h.symm⟩)
  · exact .inr (.inr ⟨rfl, by simpa using h.symm⟩)
  · exact .inr (.inr ⟨rfl, by simpa using h.symm⟩)
  · exact .inr (.inl ⟨rfl, by simpa using h.symm⟩)

/-! ## `send_command` -/

/-- An accepted request whose frame composes runs one transaction over the inputs to come, for every `DWL_POS`. -/
theorem sendCommandWith_composed {dwl : Byte} {a : AddressOperand} {c : Command} {d : Option Half} {s : State}
    {m : MemoryAddress} {f : Frame} (hp : s.phase = .idle) (hm : resolveAddress a = .ok m)
    (hf : composeWith dwl m c d = .ok f) :
    sendCommandWith dwl a c d s = .next (drive s.inputs (s.beginTransaction f)) := by
  simp only [sendCommandWith, whenIdle_idle hp, hm, hf]

/-- The same at the spec's `DWL_POS`. -/
theorem sendCommand_composed {a : AddressOperand} {c : Command} {d : Option Half} {s : State} {m : MemoryAddress}
    {f : Frame} (hp : s.phase = .idle) (hm : resolveAddress a = .ok m) (hf : compose m c d = .ok f) :
    sendCommand a c d s = .next (drive s.inputs (s.beginTransaction f)) :=
  sendCommandWith_composed hp hm hf

/-- Everything `send_command` can answer, for every `DWL_POS`. -/
theorem sendCommandWith_next {dwl : Byte} {a : AddressOperand} {c : Command} {d : Option Half} {s t : State}
    (h : sendCommandWith dwl a c d s = .next t) :
    (s.phase = .faulted ∧ t = s) ∨ (s.phase.busy = true ∧ t = s.takeFault .illegalRequest) ∨
      (s.phase = .idle ∧ ∃ e : EncError, t = s.takeFault (encFault e)) ∨
      (s.phase = .idle ∧ ∃ m f, resolveAddress a = .ok m ∧ composeWith dwl m c d = .ok f ∧
        t = drive s.inputs (s.beginTransaction f)) := by
  rcases whenIdle_next h with ⟨hp, h⟩ | h | h
  · cases hm : resolveAddress a with
    | error e => exact .inr (.inr (.inl ⟨hp, e, by simpa [hm] using h.symm⟩))
    | ok m =>
      cases hf : composeWith dwl m c d with
      | error e => exact .inr (.inr (.inl ⟨hp, e, by simpa [hm, hf] using h.symm⟩))
      | ok f => exact .inr (.inr (.inr ⟨hp, m, f, rfl, hf, by simpa [hm, hf] using h.symm⟩))
  · exact .inl h
  · exact .inr (.inl h)

/-- The same at the spec's `DWL_POS`. -/
theorem sendCommand_next {a : AddressOperand} {c : Command} {d : Option Half} {s t : State}
    (h : sendCommand a c d s = .next t) :
    (s.phase = .faulted ∧ t = s) ∨ (s.phase.busy = true ∧ t = s.takeFault .illegalRequest) ∨
      (s.phase = .idle ∧ ∃ e : EncError, t = s.takeFault (encFault e)) ∨
      (s.phase = .idle ∧ ∃ m f, resolveAddress a = .ok m ∧ compose m c d = .ok f ∧
        t = drive s.inputs (s.beginTransaction f)) :=
  sendCommandWith_next h

/-- Every instruction is `send_command` of its Command and operands. -/
theorem exec_eq_sendCommand (i : Instr) (s : State) : exec i s = sendCommand i.address i.command i.data s := by
  cases i <;> rfl

/-- Everything `set_resistance` can answer. -/
theorem setResistance_next {target : Half} {s t : State} (h : setResistance target s = .next t) :
    (s.phase = .faulted ∧ t = s) ∨ (s.phase.busy = true ∧ t = s.takeFault .illegalRequest) ∨
      (s.phase = .idle ∧ s.fullScale = 0 ∧ t = s.takeFault .scaleDivByZero) ∨
      (s.phase = .idle ∧ s.fullScale ≠ 0 ∧
        sendCommand .volatileWiper0 .write (some (scaleRaw s.fullScale s.nBits target)) s = .next t) := by
  rcases whenIdle_next h with ⟨hp, h⟩ | h | h
  · by_cases hz : s.fullScale = 0
    · exact .inr (.inr (.inl ⟨hp, hz, by simpa [hz] using h.symm⟩))
    · exact .inr (.inr (.inr ⟨hp, hz, (if_neg hz).symm.trans h⟩))
  · exact .inl h
  · exact .inr (.inl h)

/-! ## A transaction -/

/-- Issuing can only make the request of the phase, with its event. -/
theorem issue_cases (s : State) :
    s.issue = s ∨
      (s.phase = .asserted ∧ s.pending = none ∧ s.issue = s.delayMs Config.settleMs) ∨
      (s.phase = .byteSent1 ∧ s.pending = none ∧ s.issue = s.sendByte s.tx1) ∨
      (s.phase = .byteSent2 ∧ s.pending = none ∧ s.issue = s.delayMs Config.settleMs) := by
  cases hp : s.phase <;> cases hq : s.pending <;> simp [State.issue, hp, hq]

/-- Everything a capability's answer can do. -/
theorem takeAnswer_cases (a : Answer) (s : State) :
    s.takeAnswer a = s ∨
      (s.phase = .asserted ∧ (∃ n, s.pending = some (.delay n)) ∧ a = .dlyDone ∧
        s.takeAnswer a = s.sendByte s.tx0) ∨
      (s.phase = .asserted ∧ (∃ b, s.pending = some (.send b)) ∧ a = .txAck ∧
        s.takeAnswer a = s.byteSent .byteSent1) ∨
      (s.phase = .byteSent1 ∧ (∃ b, s.pending = some (.send b)) ∧ a = .txAck ∧
        s.takeAnswer a = s.byteSent .byteSent2) ∨
      ((s.phase = .asserted ∨ s.phase = .byteSent1) ∧ (∃ b, s.pending = some (.send b)) ∧ a = .txErr ∧
        s.takeAnswer a = s.takeFault .transportFailure) ∨
      (s.phase = .byteSent2 ∧ (∃ n, s.pending = some (.delay n)) ∧ a = .dlyDone ∧
        s.takeAnswer a = s.completeTransaction) := by
  cases hp : s.phase <;> rcases hq : s.pending with _ | (_ | _) <;> cases a <;>
    simp [State.takeAnswer, hp, hq]

/-- A transaction samples a beginning of the inputs. -/
theorem drive_samples (inputs : List Input) (s : State) : ∃ sampled, inputs = sampled ++ (drive inputs s).inputs := by
  induction inputs generalizing s with
  | nil => exact ⟨[], rfl⟩
  | cons ev rest ih =>
    by_cases hb : (s.absorb ev).phase.busy = true
    · obtain ⟨sampled, h⟩ := ih (s.absorb ev)
      exact ⟨ev :: sampled, by rw [drive, if_pos hb, List.cons_append, ← h]⟩
    · exact ⟨[ev], by rw [drive, if_neg hb]; rfl⟩

/-- A property that every input of a transaction keeps holds at its end. The inputs that can occur are those it
samples. -/
theorem drive_induction (P : State → Prop) (inputs : List Input)
    (hinputs : ∀ s rest, P s → P { s with inputs := rest })
    (hissue : ∀ s, s.phase.busy = true → P s → P s.issue) :
    ∀ (sampled : List Input) (s : State), inputs = sampled ++ (drive inputs s).inputs →
      (∀ s ev, ev ∈ sampled → s.phase.busy = true → P s → P (s.absorb ev)) →
      s.phase.busy = true → P s → P (drive inputs s) := by
  induction inputs with
  | nil => exact fun _ s _ _ hb hs => hinputs _ _ (hissue s hb hs)
  | cons ev rest ih =>
    intro sampled s hsampled habsorb hb hs
    cases sampled with
    | nil =>
      have hlen := congrArg List.length hsampled
      by_cases hb' : (s.absorb ev).phase.busy = true
      · obtain ⟨more, h⟩ := drive_samples rest (s.absorb ev)
        have := congrArg List.length h
        rw [drive, if_pos hb'] at hlen
        simp at hlen this
        omega
      · rw [drive, if_neg hb'] at hlen
        simp at hlen
    | cons e sampled =>
      obtain ⟨he, htail⟩ := List.cons.inj hsampled
      subst he
      have ha := habsorb s ev (by simp) hb hs
      by_cases hb' : (s.absorb ev).phase.busy = true
      · rw [drive, if_pos hb'] at htail ⊢
        exact ih sampled _ htail (fun s ev hev => habsorb s ev (by simp [hev])) hb' ha
      · rw [drive, if_neg hb']
        exact hinputs _ _ ha

/-- A transaction is busy, with no input left, or it has left the busy phases. -/
theorem drive_busy (inputs : List Input) (s : State) (h : (drive inputs s).phase.busy = true) :
    (drive inputs s).inputs = [] := by
  induction inputs generalizing s with
  | nil => rfl
  | cons ev rest ih =>
    by_cases hb : (s.absorb ev).phase.busy = true
    · rw [drive, if_pos hb] at h ⊢
      exact ih _ h
    · rw [drive, if_neg hb] at h
      exact absurd h hb

/-- A transaction whose capabilities answer completes. -/
theorem drive_acknowledged (f : Frame) (rest : List Input) (s : State) :
    Completes f.cmdByte f.dataByte rest s (drive (acknowledged ++ rest) (s.beginTransaction f)) := by
  obtain ⟨b, d⟩ := f
  cases d <;>
    simp [acknowledged, drive, State.absorb, State.issue, State.takeAnswer, Phase.busy, Completes,
      SameConfiguration, transactionEvents, State.response, Config.settleMs, Config.filler]

/-- Quiet moments change nothing once the request of the phase is made. -/
theorem drive_quiet (n : Nat) (s : State) {q : CapRequest} (hb : s.phase.busy = true) (hq : s.pending = some q) :
    drive (List.replicate n .quiet) s = { s with inputs := [] } := by
  have hi : s.issue = s := by
    rcases issue_cases s with h | ⟨_, hn, _⟩ | ⟨_, hn, _⟩ | ⟨_, hn, _⟩
    · exact h
    all_goals exact absurd (hq.symm.trans hn) (by simp)
  induction n with
  | zero => rw [List.replicate_zero, drive, hi]
  | succ n ih =>
    have ha : s.absorb .quiet = s := hi
    rw [List.replicate_succ, drive, ha, if_pos hb, ih]

/-! ## The step -/

theorem step_construct {s : State} {fs n : Half} {rest : List Input} (h : s.inputs = .construct fs n :: rest) :
    step s = .next ((s.sampled rest).construct fs n) := by
  simp [step, stepBy, h, runInputBy]

theorem step_request {s : State} {r : RequestPorts Config.slotW} {rest : List Input} (h : s.inputs = .request r :: rest) :
    step s = runRequest r (s.sampled rest) := by
  simp [step, stepBy, h, runInputBy, runRequest]

theorem step_encDrive {s : State} {p : EncPorts Config.slotW} {rest : List Input} (h : s.inputs = .encDrive p :: rest) :
    step s = .next { s.sampled rest with encIn := p } := by
  simp [step, stepBy, h, runInputBy]

theorem step_answer {s : State} {a : Answer} {rest : List Input} (h : s.inputs = .answer a :: rest) :
    step s = .next (continueTransaction (.answer a) (s.sampled rest)) := by
  simp [step, stepBy, h, runInputBy]

theorem step_quiet {s : State} {rest : List Input} (h : s.inputs = .quiet :: rest) :
    step s = .next (continueTransaction .quiet (s.sampled rest)) := by
  simp [step, stepBy, h, runInputBy]

/-- Everything a request can do: one instruction, one `set_resistance`, or an error of its selectors. -/
theorem runRequest_next {slotW : Nat} {r : RequestPorts slotW} {s t : State} (h : runRequest r s = .next t) :
    (∃ a c d, sendCommand a c d s = .next t) ∨ (setResistance r.target s = .next t) ∨
      ∃ k, (k = .illegalSelector ∨ k = .illegalRequest) ∧ s.whenIdle (fun s => .next (s.takeFault k)) = .next t := by
  unfold runRequest runRequestBy at h
  split at h
  · split at h
    · rename_i i _
      exact .inl ⟨_, _, _, exec_eq_sendCommand i s ▸ h⟩
    · exact .inr (.inr ⟨_, .inl rfl, h⟩)
  · split at h
    · exact .inr (.inl h)
    · exact .inr (.inr ⟨_, .inr rfl, h⟩)

/-- Everything a step can do. -/
theorem step_next {s t : State} (h : step s = .next t) :
    (s.inputs = [] ∧ s.phase.busy = true ∧ s.pending = none ∧ t = s.issue) ∨
    ∃ ev rest, s.inputs = ev :: rest ∧
      ((∃ fs n, ev = .construct fs n ∧ t = (s.sampled rest).construct fs n) ∨
       (∃ r, ev = .request r ∧ runRequest r (s.sampled rest) = .next t) ∨
       (∃ p, ev = .encDrive p ∧ t = { s.sampled rest with encIn := p }) ∨
       (((∃ a, ev = .answer a) ∨ ev = .quiet) ∧ t = continueTransaction ev (s.sampled rest))) := by
  cases hi : s.inputs with
  | nil =>
    simp only [step, stepBy, hi, runNoInput] at h
    split at h
    · split at h
      · exact .inl ⟨rfl, ‹_›, ‹_›, by simpa using h.symm⟩
      · cases h
      · cases h
    · cases h
  | cons ev rest =>
    refine .inr ⟨ev, rest, rfl, ?_⟩
    cases ev with
    | construct fs n => exact .inl ⟨fs, n, rfl, by simpa [step_construct hi] using h.symm⟩
    | request r => exact .inr (.inl ⟨r, rfl, by rwa [step_request hi] at h⟩)
    | encDrive p => exact .inr (.inr (.inl ⟨p, rfl, by simpa [step_encDrive hi] using h.symm⟩))
    | answer a => exact .inr (.inr (.inr ⟨.inl ⟨a, rfl⟩, by simpa [step_answer hi] using h.symm⟩))
    | quiet => exact .inr (.inr (.inr ⟨.inr rfl, by simpa [step_quiet hi] using h.symm⟩))

end Sys2Proof.Machine
end

