-- ==== Sys2Proof/Laws/PerInstr.lean ====
section
/-! SUPPORT. Statements about every instruction as syntax, one lemma per constructor. -/

namespace Sys2Proof.Laws

/-- The mask of an instruction's row in `spec/opcode_table.json` (30_encoding.md R68). -/
def TableRow.mask : Instr → Half
  | .write _ _ => 0x0C00
  | .incr _ _ => 0x0FFF
  | .decr _ _ => 0x0FFF
  | .read _ _ => 0x0FFF
  | .enwl _ _ => 0x0FFF
  | .diswl _ _ => 0x4FFF

/-- The match of an instruction's row. -/
def TableRow.pattern : Instr → Half
  | .write _ _ => 0x0000
  | .incr _ _ => 0x0400
  | .decr _ _ => 0x0800
  | .read _ _ => 0x0C00
  | .enwl _ _ => 0x0400
  | .diswl _ _ => 0x4000

/-- The wire word of an instruction is a word of its row (R68, R77). -/
def TableRow.Statement (i : Instr) : Prop :=
  encodeWire i &&& TableRow.mask i = TableRow.pattern i

/-- Field C of a Write is 00 whatever the other fields. -/
theorem TableRow.fixed_write (k : BitVec 4) (d : BitVec 10) : (k ++ 0b00#2 ++ d) &&& 0x0C00#16 = 0x0000#16 := by
  apply BitVec.eq_of_getLsbD_eq
  intro j hj
  rw [BitVec.getLsbD_and, BitVec.getLsbD_append, BitVec.getLsbD_append]
  interval_cases j <;> simp

theorem TableRow.fixed_incr : ∀ k : BitVec 4, (k ++ 0b01#2 ++ 0#10) &&& 0x0FFF#16 = 0x0400#16 := by decide

theorem TableRow.fixed_decr : ∀ k : BitVec 4, (k ++ 0b10#2 ++ 0#10) &&& 0x0FFF#16 = 0x0800#16 := by decide

theorem TableRow.fixed_read : ∀ k : BitVec 4, (k ++ 0b11#2 ++ 0#10) &&& 0x0FFF#16 = 0x0C00#16 := by decide

theorem TableRow.fixed_diswl : ∀ k : BitVec 4, (((k ++ 0#4) ||| 0x40#8) ++ 0x00#8) &&& 0x4FFF#16 = 0x4000#16 := by
  decide

theorem TableRow.write (a : AddressOperand) (d : Option Half) : TableRow.Statement (.write a d) :=
  TableRow.fixed_write _ _

theorem TableRow.incr (a : AddressOperand) (d : Option Half) : TableRow.Statement (.incr a d) :=
  TableRow.fixed_incr _

theorem TableRow.decr (a : AddressOperand) (d : Option Half) : TableRow.Statement (.decr a d) :=
  TableRow.fixed_decr _

theorem TableRow.read (a : AddressOperand) (d : Option Half) : TableRow.Statement (.read a d) :=
  TableRow.fixed_read _

theorem TableRow.enwl (a : AddressOperand) (d : Option Half) : TableRow.Statement (.enwl a d) :=
  TableRow.fixed_incr _

theorem TableRow.diswl (a : AddressOperand) (d : Option Half) : TableRow.Statement (.diswl a d) :=
  TableRow.fixed_diswl _

end Sys2Proof.Laws
end

