-- ==== Sys2Proof/Machine/Text.lean ====
section
/-! DEFINITION. The textual syntax of test programs (30_encoding.md R73, R74): read and written. What the rules leave to a
reader of text (spacing, letter case) is said in `notes/assumptions/26.md`. -/

namespace Sys2Proof.Machine

/-! ## Reading -/

/-- The value of a digit in bases up to 16. -/
def digitValue (base : Nat) (c : Char) : Option Nat :=
  let v :=
    if '0' ≤ c ∧ c ≤ '9' then c.toNat - '0'.toNat
    else if 'a' ≤ c ∧ c ≤ 'f' then c.toNat - 'a'.toNat + 10
    else if 'A' ≤ c ∧ c ≤ 'F' then c.toNat - 'A'.toNat + 10
    else base
  if v < base then some v else none

/-- The digits after an accumulated value. -/
def readDigits (base : Nat) : Nat → List Char → Option Nat
  | acc, [] => some acc
  | acc, c :: cs =>
    match digitValue base c with
    | some v => readDigits base (acc * base + v) cs
    | none => none

/-- A decimal number of at least one digit. -/
def readDecimal : List Char → Option Nat
  | [] => none
  | cs => readDigits 10 0 cs

/-- A u16 value, decimal or `0x` hexadecimal (R73). -/
def readHalf (cs : List Char) : Option Half :=
  let n :=
    match cs with
    | '0' :: 'x' :: c :: rest => readDigits 16 0 (c :: rest)
    | _ => readDecimal cs
  match n with
  | some v => if v < 65536 then some (BitVec.ofNat 16 v) else none
  | none => none

/-- An address operand (R73). -/
def readAddress (cs : List Char) : Option AddressOperand :=
  if cs = ['V', 'W', '0'] then some .volatileWiper0
  else if cs = ['V', 'W', '1'] then some .volatileWiper1
  else if cs = ['N', 'V', 'W', '0'] then some .nonVolatileWiper0
  else if cs = ['N', 'V', 'W', '1'] then some .nonVolatileWiper1
  else if cs = ['T', 'C', 'O', 'N'] then some .volatileTCON
  else if cs = ['S', 'T', 'A', 'T', 'U', 'S'] then some .status
  else if cs = ['W', 'L'] then some .wiperLock
  else
    match cs with
    | 'E' :: 'E' :: digits => (readDecimal digits).map .dataEEPROM
    | _ => none

/-- A command operand (R73). -/
def readCommand (cs : List Char) : Option Command :=
  if cs = ['W', 'R', 'I', 'T', 'E'] then some .write
  else if cs = ['I', 'N', 'C', 'R'] then some .increment
  else if cs = ['D', 'E', 'C', 'R'] then some .decrement
  else if cs = ['R', 'E', 'A', 'D'] then some .read
  else if cs = ['E', 'N', 'W', 'L'] then some .enableWiperLock
  else if cs = ['D', 'I', 'S', 'W', 'L'] then some .disableWiperLock
  else none

/-- The words of a line: what stands between spaces, tabs and commas, up to a comment (R74). -/
def lineWords : List Char → List Char → List (List Char)
  | word, [] => if word = [] then [] else [word]
  | word, c :: cs =>
    if c = ';' then (if word = [] then [] else [word])
    else if c = ' ' ∨ c = ',' ∨ c = '\t' then (if word = [] then lineWords [] cs else word :: lineWords [] cs)
    else lineWords (word ++ [c]) cs

/-- The instruction of the operands `<addr>, <cmd>[, <data>]` (R74). -/
def readInstr : List (List Char) → Option Instr
  | [a, c] =>
    match readAddress a, readCommand c with
    | some a, some c => some (Instr.ofCommand c a none)
    | _, _ => none
  | [a, c, d] =>
    match readAddress a, readCommand c, readHalf d with
    | some a, some c, some d => some (Instr.ofCommand c a (some d))
    | _, _, _ => none
  | _ => none

/-- An operation from the words of its line (R74). -/
def readOperation (op : List Char) (operands : List (List Char)) : Option Line :=
  if op = ['c', 'o', 'n', 's', 't', 'r', 'u', 'c', 't'] then
    match operands with
    | [fs, n] =>
      match readHalf fs, readHalf n with
      | some fs, some n => some (.construct fs n)
      | _, _ => none
    | _ => none
  else if op = ['c', 'o', 'm', 'p', 'o', 's', 'e'] then (readInstr operands).map .compose
  else if op = ['s', 'e', 'n', 'd'] then (readInstr operands).map .send
  else if op = ['s', 'e', 't', 'r', 'e', 's'] then
    match operands with
    | [t] => (readHalf t).map .setres
    | _ => none
  else none

/-- One line of text: `none` where it is not of the syntax, `some none` where it is empty or a comment. -/
def readLine (cs : List Char) : Option (Option Line) :=
  match lineWords [] cs with
  | [] => some none
  | op :: operands => (readOperation op operands).map some

/-! ## Writing -/

/-- The name of an address operand (R73). -/
def addressText : AddressOperand → String
  | .volatileWiper0 => "VW0"
  | .volatileWiper1 => "VW1"
  | .nonVolatileWiper0 => "NVW0"
  | .nonVolatileWiper1 => "NVW1"
  | .volatileTCON => "TCON"
  | .status => "STATUS"
  | .dataEEPROM slot => "EE" ++ toString slot
  | .wiperLock => "WL"

/-- The name of a Command, the mnemonic of its row of the opcode table (R73). -/
def commandText : Command → String
  | .write => "WRITE"
  | .increment => "INCR"
  | .decrement => "DECR"
  | .read => "READ"
  | .enableWiperLock => "ENWL"
  | .disableWiperLock => "DISWL"

/-- The operands of an instruction, as in `VW0, WRITE, 5` (R74). -/
def instrText (i : Instr) : String :=
  let head := addressText i.address ++ ", " ++ commandText i.command
  match i.data with
  | some d => head ++ ", " ++ toString d.toNat
  | none => head

/-- One line of a program (R74). -/
def lineText : Line → String
  | .construct fs n => "construct " ++ toString fs.toNat ++ ", " ++ toString n.toNat
  | .compose i => "compose " ++ instrText i
  | .send i => "send " ++ instrText i
  | .setres t => "setres " ++ toString t.toNat

end Sys2Proof.Machine
end

