-- ==== Sys2Proof/Tests/Slice0.lean ====
section
/-! SUPPORT. Tests: expected results from 95_test_vectors.md and from the encoding tables of 30_encoding.md, and one
witness for the hypotheses of each statement that has some. -/

namespace Sys2Proof.Tests

open Sys2Proof.Machine Sys2Proof.Safety

/-! ## Helpers -/

/-- A handle after construct 5000, 512, with inputs to come. -/
def idle (inputs : List Input) : State :=
  { State.reset with
    fullScale := 5000, nBits := 512, cs := 1, phase := .idle, trace := [.csHigh], inputs := inputs }

/-- A transaction (VW1, DECR) held at its first `Send`. -/
def held (inputs : List Input) : State :=
  { idle inputs with
    cs := 0, phase := .asserted, tx0 := 0x18, trace := [.csHigh, .csLow, .delayMs 1, .send 0x18],
    pending := some (.send 0x18) }

/-- CTRL after a fault with InvalidCombination. -/
def faulted (inputs : List Input) : State :=
  { idle inputs with phase := .faulted, faultCode := some .invalidCombination }

/-- No handle. -/
def unborn (inputs : List Input) : State :=
  { State.reset with inputs := inputs }

/-- The events a result appends to the one event of `idle`. -/
def eventsOf : Result → List Event
  | .next t => t.trace.drop 1
  | .fault _ => []
  | .refused _ => []

/-- Phase, fault code and response of a result. -/
def endOf : Result → Option (Phase × Option CtrlError × Option Response)
  | .next t => some (t.phase, t.faultCode, t.resp)
  | .fault _ => none
  | .refused _ => none

/-- The level of chip-select after a result. -/
def csOf : Result → Option (BitVec 1)
  | .next t => some t.cs
  | .fault _ => none
  | .refused _ => none

/-- The frame of a composition. -/
def frameOf : Except EncError Frame → Option (Byte × Option Byte)
  | .ok f => some (f.cmdByte, f.dataByte)
  | .error _ => none

/-- A decoded instruction. -/
def decoded : Except DecodeError Instr → Option Instr
  | .ok i => some i
  | .error _ => none

/-! ## WellFormed refuses each ill-formed term (R70) -/

theorem test_wf_refuses_slot_ten : (Instr.read (.dataEEPROM 10) none).wf = false := by decide
theorem test_wf_refuses_write_without_data : (Instr.write .volatileWiper0 none).wf = false := by decide
theorem test_wf_refuses_increment_with_data : (Instr.incr .volatileWiper0 (some 5)).wf = false := by decide
theorem test_wf_accepts_slot_nine : (Instr.write (.dataEEPROM 9) (some 0xFFFF)).wf = true := by decide

/-! ## Decoding: words written out from R68, ports from R92 and R113 -/

theorem test_decode_write : decoded (decodeWire 0b0010000101010101) = some (.write .nonVolatileWiper0 (some 0x155)) := by
  decide
theorem test_decode_incr : decoded (decodeWire 0b0001010000000000) = some (.incr .volatileWiper1 none) := by decide
theorem test_decode_decr : decoded (decodeWire 0b1010100000000000) = some (.decr (.dataEEPROM 5) none) := by decide
theorem test_decode_read : decoded (decodeWire 0b1000110000000000) = some (.read (.dataEEPROM 3) none) := by decide
theorem test_decode_diswl : decoded (decodeWire 0b1111000000000000) = some (.diswl .wiperLock none) := by decide
theorem test_decode_filler_not_zero : decoded (decodeWire 0b0000010000000001) = none := by decide
theorem test_decode_request_enwl :
    decoded (decodeRequest (⟨0, 2, 9, 4, false, 0xABCD, 7⟩ : RequestPorts Config.slotW)) =
      some (.enwl .nonVolatileWiper0 none) := by decide
theorem test_decode_request_write :
    decoded (decodeRequest (⟨0, 6, 3, 0, true, 0x2C3, 0⟩ : RequestPorts Config.slotW)) =
      some (.write (.dataEEPROM 3) (some 0x2C3)) := by decide
theorem test_decode_request_selector_seven :
    decoded (decodeRequest (⟨0, 0, 0, 7, true, 5, 0⟩ : RequestPorts Config.slotW)) = none := by decide
theorem test_decode_wire_other_position : decoded (decodeWireWith 0x10 0b1011000000000000) = some (.diswl (.dataEEPROM 6) none) := by
  decide

/-! ## ENC (95_test_vectors.md section 2) -/

theorem test_compose_write_masks : frameOf (compose .volatileWiper0 .write (some 0xFFFF)) = some (0x03, some 0xFF) := by
  decide
theorem test_compose_write_eeprom : frameOf (compose (.dataEEPROM 9) .write (some 0x2C3)) = some (0xE2, some 0xC3) := by
  decide
theorem test_compose_diswl : frameOf (compose .nonVolatileWiper0 .disableWiperLock none) = some (0x60, none) := by decide
theorem test_compose_diswl_other_position :
    frameOf (composeWith 0x10 (.dataEEPROM 6) .disableWiperLock none) = some (0xB0, none) := by decide
theorem test_enc_ports_slot_before_combination :
    (encPorts (⟨6, 10, 0, false, 0⟩ : EncPorts Config.slotW)).status = 2 := by decide
theorem test_enc_ports_write : encPorts (⟨6, 3, 0, true, 0x02C3⟩ : EncPorts Config.slotW) =
    ⟨0, 0x82, true, 0xC3⟩ := by decide

/-! ## Scaling (95_test_vectors.md section 3) -/

theorem test_scale_floor : scaleRaw 5000 512 4999 = 511 := by decide
theorem test_scale_largest_product : scaleRaw 65535 65535 65535 = 65535 := by decide

/-! ## Instructions (95_test_vectors.md sections 2 and 4) -/

theorem test_write_events :
    eventsOf (exec (.write .nonVolatileWiper0 (some 0x155)) (idle acknowledged)) = transactionEvents 0x21 0x55 := by decide
theorem test_incr_events :
    eventsOf (exec (.incr .volatileWiper0 none) (idle acknowledged)) = transactionEvents 0x04 0x00 := by decide
theorem test_incr_response :
    endOf (exec (.incr .volatileWiper0 none) (idle acknowledged)) = some (.idle, none, some ⟨0x04, none⟩) := by decide
theorem test_decr_transport_fails_second :
    eventsOf (exec (.decr .volatileWiper1 none) (idle [.answer .dlyDone, .answer .txAck, .answer .txErr])) =
      [.csLow, .delayMs 1, .send 0x18, .send 0x00] := by decide
theorem test_decr_transport_fails_end :
    endOf (exec (.decr .volatileWiper1 none) (idle [.answer .dlyDone, .answer .txErr])) =
      some (.faulted, some .transportFailure, none) := by decide
theorem test_read_events :
    eventsOf (exec (.read .status none) (idle acknowledged)) = transactionEvents 0x5C 0x00 := by decide
theorem test_enwl_events :
    eventsOf (exec (.enwl .nonVolatileWiper1 none) (idle acknowledged)) = transactionEvents 0x34 0x00 := by decide
theorem test_diswl_events :
    eventsOf (exec (.diswl .nonVolatileWiper0 none) (idle acknowledged)) = transactionEvents 0x60 0x00 := by decide
theorem test_write_without_data :
    endOf (exec (.write .volatileWiper0 none) (idle acknowledged)) = some (.faulted, some .invalidCombination, none) := by
  decide
theorem test_send_slot_sixteen :
    endOf (step (idle (lineInputs (.send (.read (.dataEEPROM 16) none))))) =
      some (.faulted, some .outOfRangeAddress, none) := by decide
theorem test_compose_slot_twenty_six : (encPorts (encRequest (.read (.dataEEPROM 26) none))).status = 2 := by decide
theorem test_step_other_position :
    eventsOf (stepWith 0x10 (idle (presented (.diswl (.dataEEPROM 6) none)))) = transactionEvents 0xB0 0x00 := by decide
theorem test_read_slot_ten :
    endOf (exec (.read (.dataEEPROM 10) none) (idle acknowledged)) = some (.faulted, some .outOfRangeAddress, none) := by
  decide
theorem test_diswl_held : csOf (exec (.diswl .wiperLock none) (idle [])) = some 0 := by decide

/-! ## Steps -/

theorem test_step_setres :
    eventsOf (step (idle (.request (setresRequest 6000) :: acknowledged))) = transactionEvents 0x02 0x00 := by decide
theorem test_step_request_while_held :
    csOf (step (held [.request (setresRequest 1)])) = some 0 := by decide
theorem test_request_within_instruction :
    endOf (exec (.decr .volatileWiper1 none) (idle [.answer .dlyDone, .request (setresRequest 1), .answer .txAck])) =
      some (.faulted, some .illegalRequest, none) := by decide
theorem test_construct_within_instruction :
    eventsOf (exec (.decr .volatileWiper1 none) (idle [.answer .dlyDone, .construct 7 8, .answer .txAck])) =
      [.csLow, .delayMs 1, .send 0x18, .csHigh] := by decide
theorem test_step_placed_word :
    endOf (step (State.reset.withFetchWord 16 0x0400)) = some (.idle, none, some ⟨0x04, none⟩) := by decide
theorem test_step_fault_ignores_setres :
    endOf (step (faulted [.request (setresRequest 100)])) = some (.faulted, some .invalidCombination, none) := by decide

/-! ## Text (R73, R74; the comment and the numbers are program P2's) -/

theorem test_read_address_slot_sixteen : readAddress ['E', 'E', '1', '6'] = some (.dataEEPROM 16) := by decide
theorem test_read_line :
    readLine ['s', 'e', 'n', 'd', ' ', 'E', 'E', '3', ',', ' ', 'W', 'R', 'I', 'T', 'E', ',', ' ', '0', 'x', '2', 'C', '3',
      ' ', ';', 'x'] = some (some (.send (.write (.dataEEPROM 3) (some 0x2C3)))) := by decide

/-! ## Witnesses: states and operands that meet the hypotheses of each statement -/

theorem witness_OnlyStatusAndSlotZeroShareACode : addrCode .status = addrCode (.dataEEPROM 0) := by decide
theorem witness_ComposeSucceedsExactlyWhenLegal : ¬(Command.read = .write ↔ some (0 : Half) ≠ none) := by decide
theorem witness_EepromSlotIsValidated : 9 < 10 ∧ 10 ≤ 10 := by decide
theorem witness_DatalessFramesHoldAddressAndCode :
    (Command.enableWiperLock, 1) ∈
      [(Command.increment, 1), (Command.decrement, 2), (Command.read, 3), (Command.enableWiperLock, 1)] := by decide
theorem witness_DisableWiperLockSetsAddressBitTwo : addrCode .volatileTCON = addrCode .volatileWiper0 ^^^ 0x4 := by decide
theorem witness_CommandByteReadsBack :
    Command.write ≠ .disableWiperLock ∧ compose .wiperLock .write (some 0x100) = .ok ⟨0xF1, some 0x00⟩ := by
  exact ⟨by decide, rfl⟩
theorem witness_SelectorsNameAddressesAndCommands : (⟨0, 0, 7, true, 5⟩ : EncPorts Config.slotW).cmdSel = 7 := by decide
theorem witness_EncPortsFollowCompose_selector : (⟨6, 15, 6, false, 0⟩ : EncPorts Config.slotW).cmdSel = 6 := by decide
theorem witness_EncPortsFollowCompose_slot :
    (5 : BitVec 3) ≠ 6 ∧ (5 : BitVec 3) ≠ 7 ∧ (⟨6, 10, 5, false, 0⟩ : EncPorts Config.slotW).addrKind = 6 ∧
      10 ≤ (⟨6, 10, 5, false, 0⟩ : EncPorts Config.slotW).slot.toNat := by decide
theorem witness_EncPortsFollowCompose_error :
    ¬((6 : BitVec 3) = 6 ∧ 10 ≤ (9 : BitVec 4).toNat) ∧
      compose (.dataEEPROM 9) .write none = .error .invalidCombination := ⟨by decide, rfl⟩
theorem witness_EncPortsFollowCompose_byte :
    compose (.dataEEPROM 9) .read none = .ok ⟨0xEC, none⟩ ∧
      compose (.dataEEPROM 9) .write (some 0x2C3) = .ok ⟨0xE2, some 0xC3⟩ := ⟨rfl, rfl⟩
theorem witness_SlotIsReadOnlyForDataEeprom :
    (⟨2, 9, 3, false, 0⟩ : EncPorts Config.slotW).addrKind ≠ 6 ∧ (⟨0, 5, 15, 3, false, 0, 0⟩ : RequestPorts Config.slotW).addrKind ≠ 6 ∧
      (9 : BitVec 4).toNat < 10 ∧ 10 ≤ (10 : BitVec 4).toNat := by decide
theorem witness_EncIsStateless_driven :
    (idle [.encDrive ⟨0, 0, 1, false, 0⟩]).inputs = .encDrive ⟨0, 0, 1, false, 0⟩ :: [] ∧
      (idle []).encIn = (faulted []).encIn := by decide
theorem witness_EncIsStateless_steps :
    ∃ t, step (idle [.construct 1 1, .encDrive ⟨0, 0, 1, false, 0⟩]) = .next t ∧
      (idle [.construct 1 1, .encDrive ⟨0, 0, 1, false, 0⟩]).inputs = [.construct 1 1] ++ t.inputs ∧
      ∀ p, Input.encDrive p ∉ [Input.construct 1 1] :=
  ⟨_, rfl, rfl, by simp⟩

theorem witness_RequestDecodesBack : (Instr.enwl (.dataEEPROM 15) (some 0xFFFF)).address.fits Config.slotW = true := by
  decide
theorem witness_ComposedFrameIsTheWirePattern :
    resolveAddress (.dataEEPROM 9) = .ok (.dataEEPROM 9) ∧
      compose (.dataEEPROM 9) .write (some 0x2C3) = .ok ⟨0xE2, some 0xC3⟩ := ⟨rfl, rfl⟩
theorem witness_WireWordsCoincideOnlyAsListed :
    (Instr.diswl .volatileWiper0 none).wf = true ∧ (Instr.write .volatileTCON (some 0)).wf = true ∧
      encodeWire (.diswl .volatileWiper0 none) = encodeWire (.write .volatileTCON (some 0)) := by decide
theorem witness_WireDecodesToTheChosenReading : (Instr.write (.dataEEPROM 9) (some 0x400)).wf = true := by decide
theorem witness_DecodedWireWordEncodesBack :
    decodeWireWith Config.dwlPos 0x5C00 = .ok (.read .status none) ∧
      decodeWireWith 0x08 0xF800 = .ok (.diswl .wiperLock none) := ⟨rfl, rfl⟩

theorem witness_StepRunsTheRequestedInstruction :
    (idle (presented (.enwl .wiperLock none))).inputs =
        .request (encodeRequest (.enwl .wiperLock none)) :: acknowledged ∧
      (encodeRequest (.enwl .wiperLock none) : RequestPorts Config.slotW).op = 0 ∧
      decodeRequest (encodeRequest (.enwl .wiperLock none) : RequestPorts Config.slotW) = .ok (.enwl .wiperLock none) := ⟨rfl, rfl, rfl⟩
theorem witness_PlacedWordRunsNext : decodeTableWord 16 0x33FF = some (.write .nonVolatileWiper1 (some 0x3FF)) := by decide
theorem witness_completion :
    resolveAddress (.dataEEPROM 9) = .ok (.dataEEPROM 9) ∧ (idle (acknowledged ++ [.quiet])).phase = .idle ∧
      (idle (acknowledged ++ [.quiet])).inputs = acknowledged ++ [.quiet] := ⟨rfl, rfl, rfl⟩
theorem witness_SetResistanceCompletes :
    (setresRequest 6000).op = 1 ∧ (idle (.request (setresRequest 6000) :: acknowledged)).phase = .idle ∧
      (idle (.request (setresRequest 6000) :: acknowledged)).fullScale ≠ 0 ∧
      (idle (.request (setresRequest 6000) :: acknowledged)).inputs =
        .request (setresRequest 6000) :: (acknowledged ++ []) ∧
      512 = min (6000 : Half).toNat (5000 : Half).toNat * (512 : Half).toNat / (5000 : Half).toNat := by decide
theorem witness_ScalingIsExact : (1 : Half) ≠ 0 := by decide
theorem witness_transactionPoints :
    ∀ p, p ∈ transactionPoints ⟨0x18, none⟩ →
      (idle (p.1 ++ .request (setresRequest 1) :: [.quiet])).inputs = p.1 ++ .request (setresRequest 1) :: [.quiet] ∧
        (idle (p.1 ++ .construct 7 8 :: [.quiet])).inputs = p.1 ++ .construct 7 8 :: [.quiet] := fun _ _ => ⟨rfl, rfl⟩
theorem witness_transactionPoints_first_and_last :
    ([], [.csLow]) ∈ transactionPoints ⟨0x18, none⟩ ∧
      ([.answer .dlyDone, .answer .txAck, .answer .txAck, .quiet],
        [.csLow, .delayMs 1, .send 0x18, .send 0x00, .delayMs 1]) ∈ transactionPoints ⟨0x18, none⟩ := by decide
theorem witness_ConstructMakesAFreshHandle : (held [.construct 0 0xFFFF]).inputs = .construct 0 0xFFFF :: [] := by decide

theorem witness_IllegalCombinationFaults :
    (Instr.diswl (.dataEEPROM 9) (some 0)).address.inRange = true ∧ (Instr.diswl (.dataEEPROM 9) (some 0)).wf = false ∧
      (idle []).phase = .idle := by decide
theorem witness_OutOfRangeSlotFaults : (Instr.write (.dataEEPROM 10) none).address.inRange = false := by decide
theorem witness_IllegalPortsFault :
    (idle [.request ⟨0, 6, 15, 6, false, 0, 0⟩]).inputs = .request ⟨0, 6, 15, 6, false, 0, 0⟩ :: [] ∧
      (⟨0, 6, 15, 6, false, 0, 0⟩ : RequestPorts Config.slotW).op = 0 ∧ (⟨0, 6, 15, 6, false, 0, 0⟩ : RequestPorts Config.slotW).cmdSel = 6 ∧
      (⟨2, 0, 0, 7, false, 0, 0⟩ : RequestPorts Config.slotW).op = 2 ∧ (⟨3, 0, 0, 0, false, 0, 0⟩ : RequestPorts Config.slotW).op = 3 := by decide
theorem witness_ZeroFullScaleFaults :
    ({ idle [.request (setresRequest 100)] with fullScale := 0 } : State).inputs = .request (setresRequest 100) :: [] ∧
      ({ idle [.request (setresRequest 100)] with fullScale := 0 } : State).phase = .idle ∧
      (setresRequest 100).op = 1 ∧ ({ idle [.request (setresRequest 100)] with fullScale := 0 } : State).fullScale = 0 := by
  decide
theorem witness_RequestsAreAcceptedOnlyInIdle :
    (held [.request (setresRequest 1)]).phase = .asserted ∧ (faulted [.request (setresRequest 1)]).phase = .faulted ∧
      (unborn [.request (setresRequest 1)]).phase = .noHandle ∧
      (unborn [.request (setresRequest 1)]).inputs = .request (setresRequest 1) :: [] := by decide
theorem witness_composed_in_idle :
    resolveAddress (Instr.decr .volatileWiper1 none).address = .ok .volatileWiper1 ∧
      compose .volatileWiper1 .decrement none = .ok ⟨0x18, none⟩ := ⟨rfl, rfl⟩
theorem witness_TransportFailureFaults :
    (idle [.answer .dlyDone, .answer .txErr, .quiet]).inputs = [.answer .dlyDone, .answer .txErr] ++ [.quiet] ∧
      (idle [.answer .dlyDone, .answer .txAck, .answer .txErr]).inputs =
        [.answer .dlyDone, .answer .txAck, .answer .txErr] ++ [] := by decide
theorem witness_FaultIsSticky :
    (faulted [.answer .txAck]).phase = .faulted ∧ ∃ t, step (faulted [.answer .txAck]) = .next t := ⟨rfl, _, rfl⟩
theorem witness_SilentCapabilityHolds :
    (idle []).inputs = List.replicate 0 .quiet ∧
      (idle [.answer .dlyDone, .quiet]).inputs = [.answer .dlyDone] ++ List.replicate 1 .quiet ∧
      (idle [.answer .dlyDone, .answer .txAck]).inputs = [.answer .dlyDone, .answer .txAck] ++ List.replicate 0 .quiet ∧
      (idle [.answer .dlyDone, .answer .txAck, .answer .txAck]).inputs =
        [.answer .dlyDone, .answer .txAck, .answer .txAck] ++ List.replicate 0 .quiet := by decide
theorem witness_SilentCapabilityHolds_quiet :
    (held [.quiet]).phase.busy = true ∧ (held [.quiet]).pending = some (.send 0x18) ∧
      (held [.quiet]).inputs = List.replicate (0 + 1) .quiet ∧
      ({ held [] with pending := none } : State).phase.busy = true ∧
      ({ held [] with pending := none } : State).pending = none ∧
      ({ held [] with pending := none } : State).inputs = [] := by decide
/-- `held` at another of the four waits. -/
def heldAt (p : Phase) (q : Option CapRequest) (inputs : List Input) : State :=
  { held inputs with phase := p, pending := q }
theorem witness_HeldTransactionGoesOn :
    ((heldAt .asserted (some (.delay 1)) acknowledged).phase = .asserted ∧
        (heldAt .asserted (some (.delay 1)) acknowledged).pending = some (.delay 1) ∧
        (heldAt .asserted (some (.delay 1)) acknowledged).inputs =
          [.answer .dlyDone, .answer .txAck, .answer .txAck, .answer .dlyDone] ++ []) ∧
      ((held (acknowledged.drop 1)).phase = .asserted ∧ (held (acknowledged.drop 1)).pending = some (.send 0x18) ∧
        (held (acknowledged.drop 1)).inputs = [.answer .txAck, .answer .txAck, .answer .dlyDone] ++ []) ∧
      ((heldAt .byteSent1 (some (.send 0)) (acknowledged.drop 2)).phase = .byteSent1 ∧
        (heldAt .byteSent1 (some (.send 0)) (acknowledged.drop 2)).pending = some (.send 0) ∧
        (heldAt .byteSent1 (some (.send 0)) (acknowledged.drop 2)).inputs = [.answer .txAck, .answer .dlyDone] ++ []) ∧
      (heldAt .byteSent2 (some (.delay 1)) (acknowledged.drop 3)).phase = .byteSent2 ∧
      (heldAt .byteSent2 (some (.delay 1)) (acknowledged.drop 3)).pending = some (.delay 1) ∧
      (heldAt .byteSent2 (some (.delay 1)) (acknowledged.drop 3)).inputs = [.answer .dlyDone] ++ [] := by decide
theorem witness_PhaseTableRows :
    ∀ p, p = .asserted ∨ p = .byteSent1 ∨ p = .byteSent2 →
      (heldAt p none []).phase = p ∧ (heldAt p none []).pending = none ∧
        (heldAt p (some (.delay 1)) []).pending = some (.delay 1) ∧
        (heldAt p (some (.send 0)) []).pending = some (.send 0) :=
  fun _ _ => ⟨rfl, rfl, rfl, rfl⟩
theorem witness_UnaskedAnswersHaveNoTransition :
    (unborn []).phase = .noHandle ∧ (unborn []).inputs = [] ∧ (unborn [.quiet]).inputs = .quiet :: [] ∧
      (faulted [.answer .txErr]).inputs = .answer .txErr :: [] ∧ (idle [.answer .dlyDone]).phase = .idle := by decide

theorem witness_StatusOutputsFollowRegisters :
    (held []).phase ≠ .noHandle ∧ (held []).pending = some (.send 0x18) ∧
      ({ idle [] with resp := some ⟨0x21, some 0x55⟩ } : State).resp = some ⟨0x21, some 0x55⟩ ∧
      (heldAt .byteSent2 (some (.delay 1)) []).pending = some (.delay 1) := by decide
/-- Every fault code is held by some handle, and every phase but `noHandle` is one's. -/
theorem witness_StatusOutputsFollowRegisters_codes :
    ∀ k, ({ faulted [] with faultCode := some k } : State).phase ≠ .noHandle ∧
      ({ faulted [] with faultCode := some k } : State).faultCode = some k :=
  fun _ => ⟨by simp [faulted], rfl⟩
theorem witness_TraceOnlyGrows : ∃ t, step (idle (presented (.incr .volatileWiper0 none))) = .next t := ⟨_, rfl⟩
/-- A construct that stands after what the step samples. -/
theorem witness_ConfigurationIsImmutable :
    ∃ t, step (idle (presented (.incr .volatileWiper0 none) ++ [.construct 1 1])) = .next t ∧
      (idle (presented (.incr .volatileWiper0 none) ++ [.construct 1 1])).inputs =
        presented (.incr .volatileWiper0 none) ++ t.inputs ∧
      ∀ fs n, Input.construct fs n ∉ presented (.incr .volatileWiper0 none) :=
  ⟨_, rfl, rfl, by simp [presented, acknowledged]⟩
theorem witness_NoHandleRefusesEveryInstruction : State.reset.phase = .noHandle := by decide
theorem witness_SetResistanceNeverMiscomposes :
    (idle [.request (setresRequest 1), .answer .dlyDone, .answer .txErr]).phase = .idle ∧
      endOf (step (idle [.request (setresRequest 1), .answer .dlyDone, .answer .txErr])) =
        some (.faulted, some .transportFailure, none) := by decide
theorem held_inv : CtrlInv (held [.answer .txAck]) := by
  refine ⟨⟨rfl, rfl, rfl, ?_, .inr (.inr rfl)⟩, rfl⟩
  intro _
  rfl
theorem witness_StepKeepsTheInvariant :
    CtrlInv (held [.answer .txAck]) ∧ ∃ t, step (held [.answer .txAck]) = .next t := ⟨held_inv, _, rfl⟩
theorem witness_TransactionIsAllOrAPrefix :
    (idle [.answer .dlyDone, .answer .txErr, .construct 1 1]).phase = .idle ∧
      ∃ t, exec (.decr .volatileWiper1 none) (idle [.answer .dlyDone, .answer .txErr, .construct 1 1]) = .next t ∧
        (idle [.answer .dlyDone, .answer .txErr, .construct 1 1]).inputs =
          [.answer .dlyDone, .answer .txErr] ++ t.inputs ∧
        ∀ fs n, Input.construct fs n ∉ [Input.answer .dlyDone, .answer .txErr] :=
  ⟨rfl, _, rfl, rfl, by simp⟩
theorem witness_EventsDependOnlyOnTheRequest :
    (idle acknowledged).phase = .idle ∧ ({ idle acknowledged with trace := [], nBits := 3 } : State).phase = .idle ∧
      (idle acknowledged).inputs = ({ idle acknowledged with trace := [], nBits := 3 } : State).inputs ∧
      (∃ t, exec (.read .status none) (idle acknowledged) = .next t) ∧
      ∃ t, exec (.read .status none) { idle acknowledged with trace := [], nBits := 3 } = .next t :=
  ⟨rfl, rfl, rfl, ⟨_, rfl⟩, _, rfl⟩
theorem witness_InputsAreSampledInOrder :
    (∃ t, step (idle [.quiet]) = .next t) ∧ (idle [.quiet]).inputs ≠ [] ∧
      ∃ t, exec (.incr .volatileWiper0 none) (idle acknowledged) = .next t := ⟨⟨_, rfl⟩, by simp [idle], _, rfl⟩
theorem witness_WrittenSlotsOfTenOrMoreFail :
    (Instr.read (.dataEEPROM 10) none).address.inRange = false ∧ (Instr.read (.dataEEPROM 16) none).address.inRange = false ∧
      (idle (lineInputs (.send (.read (.dataEEPROM 16) none)))).phase = .idle ∧
      (idle (lineInputs (.send (.read (.dataEEPROM 16) none)))).inputs =
        lineInputs (.send (.read (.dataEEPROM 16) none)) ++ [] ∧
      (idle (lineInputs (.compose (.read (.dataEEPROM 16) none)))).inputs =
        lineInputs (.compose (.read (.dataEEPROM 16) none)) ++ [] := by decide
theorem witness_OnlyDisableWiperLockReadsDwlPos :
    (Instr.enwl .wiperLock none).command ≠ .disableWiperLock ∧ (idle acknowledged).phase = .idle ∧
      (idle acknowledged).inputs = acknowledged ++ [] := by decide
theorem witness_TransactionAbsorbsItsInputs :
    ((held [.answer .txErr]).phase.busy = true ∧ (held [.answer .txErr]).inputs = .answer .txErr :: []) ∧
      (∀ earlier, earlier <+: [Input.quiet] → (absorbAll earlier (held [])).phase.busy = true) ∧
      ((absorbAll [.quiet] (held [])).absorb (.answer .txErr)).phase.busy = false := by
  refine ⟨by decide, fun earlier h => ?_, by decide⟩
  rcases List.prefix_cons_iff.mp h with rfl | ⟨later, rfl, hlater⟩
  · decide
  · obtain rfl : later = [] := by simpa using hlater
    decide

end Sys2Proof.Tests
end

section
/-! PROOFS. Where `DWL_POS` is read (00_scope.md R13, 41_compose.md R108, D7): only in the positioned code of
DisableWiperLock, so only in the frame of that Command. Composition, `send_command` and an instruction each pass this on. -/

namespace Sys2Proof.Proofs

open Sys2Proof.Machine Sys2Proof.Safety

/-- R109: every positioned code but that of DisableWiperLock is a constant. -/
theorem cmdPosWith_eq_of_ne_disableWiperLock {c : Command} (h : c ≠ .disableWiperLock) (dwl dwl' : Byte) :
    cmdPosWith dwl c = cmdPosWith dwl' c := by
  cases c with
  | disableWiperLock => exact absurd rfl h
  | write | increment | decrement | read | enableWiperLock => rfl

theorem composeWith_eq_compose {c : Command} (h : c ≠ .disableWiperLock) (dwl : Byte) (m : MemoryAddress)
    (d : Option Half) : composeWith dwl m c d = compose m c d := by
  simp only [compose, composeWith, cmdPosWith_eq_of_ne_disableWiperLock h dwl Config.dwlPos]

theorem sendCommandWith_eq_sendCommand {c : Command} (h : c ≠ .disableWiperLock) (dwl : Byte) (a : AddressOperand)
    (d : Option Half) (s : State) : sendCommandWith dwl a c d s = sendCommand a c d s := by
  simp only [sendCommand, sendCommandWith, composeWith_eq_compose h]

/-- At the spec's `DWL_POS` the parametrised instruction is the block's. -/
theorem execWith_dwlPos : execWith Config.dwlPos = exec := by
  funext i s
  exact (exec_eq_sendCommand i s).symm

/-- At the spec's `DWL_POS` the parametrised step is the block's. -/
theorem stepWith_dwlPos (s : State) : stepWith Config.dwlPos s = step s := by
  rw [stepWith, execWith_dwlPos, step]

theorem execWith_eq_exec {i : Instr} (h : i.command ≠ .disableWiperLock) (dwl : Byte) (s : State) :
    execWith dwl i s = exec i s :=
  (sendCommandWith_eq_sendCommand h dwl i.address i.data s).trans (exec_eq_sendCommand i s).symm

/-- R108: the frame of DISWL, whatever `DWL_POS`. -/
theorem composeWith_disableWiperLock (dwl : Byte) (m : MemoryAddress) :
    composeWith dwl m .disableWiperLock none = .ok ⟨addrPos m ||| dwl, none⟩ :=
  composeWith_dataless dwl m (by decide)

/-- An instruction in Idle whose frame composes completes with that frame's bytes when the capabilities answer, for every
`DWL_POS`. -/
theorem execWith_completes {dwl : Byte} {i : Instr} {s : State} {rest : List Input} {m : MemoryAddress} {f : Frame}
    (hp : s.phase = .idle) (hin : s.inputs = acknowledged ++ rest) (hm : resolveAddress i.address = .ok m)
    (hf : composeWith dwl m i.command i.data = .ok f) :
    ∃ t, execWith dwl i s = .next t ∧ Completes f.cmdByte f.dataByte rest s t :=
  ⟨_, sendCommandWith_composed hp hm hf, hin ▸ drive_acknowledged f rest s⟩

/-- Settles O51: each layer from the positioned code up to an instruction reads `DWL_POS` only for DisableWiperLock, and
the frame of DISWL composes, so its transaction completes, at every value. -/
theorem onlyDisableWiperLockReadsDwlPos : Obligations.OnlyDisableWiperLockReadsDwlPos := by
  refine ⟨fun i s => congrFun (congrFun execWith_dwlPos i) s, stepWith_dwlPos,
    fun dwl i s h => execWith_eq_exec h dwl s, ?_⟩
  intro dwl a m s rest hm hp hin
  exact execWith_completes (i := .diswl a none) hp hin hm (composeWith_disableWiperLock dwl m)

end Sys2Proof.Proofs
end

section
/-! PROOFS. The inputs an operation samples (10_state.md R22, R36): always a beginning of those to come, and the head of
them in every step that has one. -/

namespace Sys2Proof.Proofs

open Sys2Proof.Machine

/-- A transaction with an input to come samples its head. -/
theorem drive_samples_head (ev : Input) (rest : List Input) (s : State) :
    ∃ more, rest = more ++ (drive (ev :: rest) s).inputs := by
  by_cases hb : (s.absorb ev).phase.busy = true
  · rw [drive, if_pos hb]
    exact drive_samples rest _
  · rw [drive, if_neg hb]
    exact ⟨[], rfl⟩

theorem sendCommand_samples {a : AddressOperand} {c : Command} {d : Option Half} {s t : State}
    (h : sendCommand a c d s = .next t) : ∃ sampled, s.inputs = sampled ++ t.inputs := by
  rcases sendCommand_next h with ⟨-, rfl⟩ | ⟨-, rfl⟩ | ⟨-, e, rfl⟩ | ⟨-, m, f, -, -, rfl⟩
  · exact ⟨[], rfl⟩
  · exact ⟨[], by simp⟩
  · exact ⟨[], by simp⟩
  · exact drive_samples s.inputs _

theorem exec_samples {i : Instr} {s t : State} (h : exec i s = .next t) :
    ∃ sampled, s.inputs = sampled ++ t.inputs :=
  sendCommand_samples (exec_eq_sendCommand i s ▸ h)

theorem setResistance_samples {target : Half} {s t : State} (h : setResistance target s = .next t) :
    ∃ sampled, s.inputs = sampled ++ t.inputs := by
  rcases setResistance_next h with ⟨-, rfl⟩ | ⟨-, rfl⟩ | ⟨-, -, rfl⟩ | ⟨-, -, h⟩
  · exact ⟨[], rfl⟩
  · exact ⟨[], by simp⟩
  · exact ⟨[], by simp⟩
  · exact sendCommand_samples h

/-- Everything a request of illegal selectors can do, with `k` the error they are in Idle (R148, R163, R166). -/
theorem whenIdle_takeFault_next {k : CtrlError} {s t : State}
    (h : s.whenIdle (fun s => .next (s.takeFault k)) = .next t) :
    (s.phase = .idle ∧ t = s.takeFault k) ∨ (s.phase = .faulted ∧ t = s) ∨
      (s.phase.busy = true ∧ t = s.takeFault .illegalRequest) := by
  rcases whenIdle_next h with ⟨hp, h⟩ | h | h
  · exact .inl ⟨hp, by simpa using h.symm⟩
  · exact .inr (.inl h)
  · exact .inr (.inr h)

theorem runRequest_samples {slotW : Nat} {r : RequestPorts slotW} {s t : State} (h : runRequest r s = .next t) :
    ∃ sampled, s.inputs = sampled ++ t.inputs := by
  rcases runRequest_next h with ⟨a, c, d, h⟩ | h | ⟨k, -, h⟩
  · exact sendCommand_samples h
  · exact setResistance_samples h
  · rcases whenIdle_takeFault_next h with ⟨-, rfl⟩ | ⟨-, rfl⟩ | ⟨-, rfl⟩ <;> exact ⟨[], by simp⟩

theorem continueTransaction_samples (ev : Input) (s : State) :
    ∃ more, s.inputs = more ++ (continueTransaction ev s).inputs := by
  by_cases hb : s.phase.busy = true
  · rw [continueTransaction, if_pos hb]
    exact drive_samples_head ev s.inputs s
  · rw [continueTransaction, if_neg hb]
    exact ⟨[], rfl⟩

/-- A step with an input to come samples its head, and a beginning of the rest. -/
theorem step_samples_head {s t : State} {ev : Input} {rest : List Input} (hin : s.inputs = ev :: rest)
    (h : step s = .next t) : ∃ more, rest = more ++ t.inputs := by
  rcases step_next h with ⟨hnil, -⟩ | ⟨ev', rest', hin', hcases⟩
  · exact absurd (hin.symm.trans hnil) (by simp)
  · obtain ⟨rfl, rfl⟩ := List.cons.inj (hin.symm.trans hin')
    rcases hcases with ⟨fs, n, -, rfl⟩ | ⟨r, -, hr⟩ | ⟨p, -, rfl⟩ | ⟨-, rfl⟩
    · exact ⟨[], rfl⟩
    · exact runRequest_samples hr
    · exact ⟨[], rfl⟩
    · exact continueTransaction_samples ev (s.sampled rest)

/-- Issuing a request samples no input. -/
@[simp] theorem issue_inputs (s : State) : s.issue.inputs = s.inputs := by
  rcases issue_cases s with h | ⟨-, -, h⟩ | ⟨-, -, h⟩ | ⟨-, -, h⟩ <;> simp [h]

theorem step_samples {s t : State} (h : step s = .next t) :
    ∃ sampled, s.inputs = sampled ++ t.inputs ∧ (s.inputs ≠ [] → sampled ≠ []) := by
  cases hin : s.inputs with
  | nil =>
    rcases step_next h with ⟨-, -, -, rfl⟩ | ⟨ev, rest, hcons, -⟩
    · exact ⟨[], by simp [hin], fun hne => absurd rfl hne⟩
    · exact absurd (hin.symm.trans hcons) (by simp)
  | cons ev rest =>
    obtain ⟨more, hmore⟩ := step_samples_head hin h
    exact ⟨ev :: more, congrArg (ev :: ·) hmore, fun _ => List.cons_ne_nil _ _⟩

/-- Settles O49: a step and an instruction each sample a beginning of the inputs, a step at least their head. -/
theorem inputsAreSampledInOrder : Obligations.InputsAreSampledInOrder :=
  ⟨fun _ _ => step_samples, fun _ _ _ => exec_samples⟩

end Sys2Proof.Proofs
end

section
/-! PROOFS. Induction along a step: a property that each of CTRL's operations keeps is kept by every step. What is
proved so: the trace only grows (10_state.md R27), and no step drives ENC's ports unless HOST does (R20, R180). -/

namespace Sys2Proof.Proofs

open Sys2Proof.Machine

/-- CTRL's operations keep `P`, where HOST and the capabilities do nothing but what `allowed` admits. A fault is taken at
the admission of a request, in Idle or as IllegalRequest during a transaction; that of a failed transport is an answer's. -/
structure KeptByOperations (allowed : Input → Prop) (P : State → Prop) : Prop where
  sampled : ∀ s rest, P s → P (s.sampled rest)
  inputs : ∀ s rest, P s → P { s with inputs := rest }
  issue : ∀ s, s.phase.busy = true → P s → P s.issue
  takeAnswer : ∀ s a, s.phase.busy = true → P s → P (s.takeAnswer a)
  takeFault : ∀ s k, s.phase = .idle ∨ (s.phase.busy = true ∧ k = .illegalRequest) → P s → P (s.takeFault k)
  beginTransaction : ∀ s f, s.phase = .idle → P s → P (s.beginTransaction f)
  construct : ∀ s fs n, allowed (.construct fs n) → P s → P (s.construct fs n)
  encDrive : ∀ s p, allowed (.encDrive p) → P s → P { s with encIn := p }

/-- Issuing a request stays in the phase. -/
@[simp] theorem issue_phase (s : State) : s.issue.phase = s.phase := by
  rcases issue_cases s with h | ⟨-, -, h⟩ | ⟨-, -, h⟩ | ⟨-, -, h⟩ <;> simp [h]

section

variable {allowed : Input → Prop} {P : State → Prop} {s t : State} {sampled : List Input}

theorem KeptByOperations.absorb (hP : KeptByOperations allowed P) {ev : Input} (hev : allowed ev)
    (hb : s.phase.busy = true) (hs : P s) : P (s.absorb ev) := by
  cases ev with
  | construct fs n => exact hP.construct s fs n hev hs
  | request r => exact hP.takeFault s _ (.inr ⟨hb, rfl⟩) hs
  | encDrive p => exact hP.encDrive s p hev hs
  | answer a => exact hP.takeAnswer s.issue a (by rwa [issue_phase]) (hP.issue s hb hs)
  | quiet => exact hP.issue s hb hs

theorem KeptByOperations.drive (hP : KeptByOperations allowed P) {inputs : List Input}
    (hin : inputs = sampled ++ (drive inputs s).inputs) (hall : ∀ ev ∈ sampled, allowed ev)
    (hb : s.phase.busy = true) (hs : P s) : P (drive inputs s) :=
  drive_induction P inputs hP.inputs hP.issue sampled s hin (fun _ ev hev => hP.absorb (hall ev hev)) hb hs

theorem KeptByOperations.sendCommand (hP : KeptByOperations allowed P) {a : AddressOperand} {c : Command}
    {d : Option Half} (h : sendCommand a c d s = .next t) (hin : s.inputs = sampled ++ t.inputs)
    (hall : ∀ ev ∈ sampled, allowed ev) (hs : P s) : P t := by
  rcases sendCommand_next h with ⟨-, rfl⟩ | ⟨hb, rfl⟩ | ⟨hp, e, rfl⟩ | ⟨hp, m, f, -, -, rfl⟩
  · exact hs
  · exact hP.takeFault s _ (.inr ⟨hb, rfl⟩) hs
  · exact hP.takeFault s _ (.inl hp) hs
  · exact hP.drive hin hall rfl (hP.beginTransaction s f hp hs)

theorem KeptByOperations.setResistance (hP : KeptByOperations allowed P) {target : Half}
    (h : setResistance target s = .next t) (hin : s.inputs = sampled ++ t.inputs)
    (hall : ∀ ev ∈ sampled, allowed ev) (hs : P s) : P t := by
  rcases setResistance_next h with ⟨-, rfl⟩ | ⟨hb, rfl⟩ | ⟨hp, -, rfl⟩ | ⟨-, -, h⟩
  · exact hs
  · exact hP.takeFault s _ (.inr ⟨hb, rfl⟩) hs
  · exact hP.takeFault s _ (.inl hp) hs
  · exact hP.sendCommand h hin hall hs

theorem KeptByOperations.runRequest (hP : KeptByOperations allowed P) {slotW : Nat} {r : RequestPorts slotW}
    (h : runRequest r s = .next t) (hin : s.inputs = sampled ++ t.inputs)
    (hall : ∀ ev ∈ sampled, allowed ev) (hs : P s) : P t := by
  rcases runRequest_next h with ⟨a, c, d, h⟩ | h | ⟨k, -, h⟩
  · exact hP.sendCommand h hin hall hs
  · exact hP.setResistance h hin hall hs
  · rcases whenIdle_takeFault_next h with ⟨hp, rfl⟩ | ⟨-, rfl⟩ | ⟨hb, rfl⟩
    · exact hP.takeFault s k (.inl hp) hs
    · exact hs
    · exact hP.takeFault s _ (.inr ⟨hb, rfl⟩) hs

theorem KeptByOperations.continueTransaction (hP : KeptByOperations allowed P) {ev : Input}
    (hin : s.inputs = sampled ++ (continueTransaction ev s).inputs) (hev : allowed ev)
    (hall : ∀ ev ∈ sampled, allowed ev) (hs : P s) : P (continueTransaction ev s) := by
  by_cases hb : s.phase.busy = true
  · rw [Machine.continueTransaction, if_pos hb] at hin ⊢
    exact hP.drive (congrArg (ev :: ·) hin) (List.forall_mem_cons.mpr ⟨hev, hall⟩) hb hs
  · rwa [Machine.continueTransaction, if_neg hb]

/-- Induction along a step: it keeps what CTRL's operations keep, if the inputs it samples are allowed. -/
theorem KeptByOperations.step (hP : KeptByOperations allowed P) (h : step s = .next t)
    (hin : s.inputs = sampled ++ t.inputs) (hall : ∀ ev ∈ sampled, allowed ev) (hs : P s) : P t := by
  rcases step_next h with ⟨-, hb, -, rfl⟩ | ⟨ev, rest, hcons, hcases⟩
  · exact hP.issue s hb hs
  · obtain ⟨more, hmore⟩ := step_samples_head hcons h
    obtain rfl : sampled = ev :: more := by
      rw [hcons, hmore, ← List.cons_append] at hin
      exact (List.append_cancel_right hin).symm
    obtain ⟨hev, hrest⟩ := List.forall_mem_cons.mp hall
    have hs' := hP.sampled s rest hs
    rcases hcases with ⟨fs, n, rfl, rfl⟩ | ⟨r, rfl, hr⟩ | ⟨p, rfl, rfl⟩ | ⟨-, rfl⟩
    · exact hP.construct _ fs n hev hs'
    · exact hP.runRequest hr hmore hrest hs'
    · exact hP.encDrive _ p hev hs'
    · exact hP.continueTransaction hmore hev hrest hs'

/-- The same for a property that no input can break. -/
theorem KeptByOperations.every_step (hP : KeptByOperations (fun _ => True) P) (h : Machine.step s = .next t)
    (hs : P s) : P t := by
  obtain ⟨sampled, hin, -⟩ := step_samples h
  exact hP.step h hin (fun _ _ => trivial) hs

end

/-! ## The trace -/

/-- The trace of `t` is that of `s` with events after it. -/
def ExtendsTrace (s t : State) : Prop :=
  ∃ events, t.trace = s.trace ++ events

theorem ExtendsTrace.of_eq {s t t' : State} (h : ExtendsTrace s t) (heq : t'.trace = t.trace) : ExtendsTrace s t' := by
  obtain ⟨events, h⟩ := h
  exact ⟨events, heq.trans h⟩

theorem ExtendsTrace.of_append {s t t' : State} (h : ExtendsTrace s t) {e : Event} (heq : t'.trace = t.trace ++ [e]) :
    ExtendsTrace s t' := by
  obtain ⟨events, h⟩ := h
  exact ⟨events ++ [e], by rw [heq, h, List.append_assoc]⟩

theorem ExtendsTrace.issue {s t : State} (h : ExtendsTrace s t) : ExtendsTrace s t.issue := by
  rcases issue_cases t with heq | ⟨-, -, heq⟩ | ⟨-, -, heq⟩ | ⟨-, -, heq⟩ <;> rw [heq]
  · exact h
  all_goals exact h.of_append rfl

theorem ExtendsTrace.takeAnswer {s t : State} (h : ExtendsTrace s t) (a : Answer) :
    ExtendsTrace s (t.takeAnswer a) := by
  rcases takeAnswer_cases a t with heq | ⟨-, -, -, heq⟩ | ⟨-, -, -, heq⟩ | ⟨-, -, -, heq⟩ | ⟨-, -, -, heq⟩ |
    ⟨-, -, -, heq⟩ <;> rw [heq]
  · exact h
  · exact h.of_append rfl
  · exact h.of_eq rfl
  · exact h.of_eq rfl
  · exact h.of_eq (by simp)
  · exact h.of_append rfl

/-- R27: the operations append to the trace or leave it, whatever the inputs. -/
theorem extendsTrace_kept (s : State) : KeptByOperations (fun _ => True) (ExtendsTrace s) where
  sampled _ _ h := h.of_eq rfl
  inputs _ _ h := h.of_eq rfl
  issue _ _ h := h.issue
  takeAnswer _ a _ h := h.takeAnswer a
  takeFault _ _ _ h := h.of_eq (by simp)
  beginTransaction _ _ _ h := h.of_append rfl
  construct _ _ _ _ h := h.of_append rfl
  encDrive _ _ _ h := h.of_eq rfl

/-- Settles O41: the trace of the state before is extended by every operation of a step. -/
theorem traceOnlyGrows : Obligations.TraceOnlyGrows := fun s _ h =>
  (extendsTrace_kept s).every_step h ⟨[], (List.append_nil _).symm⟩

/-! ## ENC's input ports -/

@[simp] theorem issue_encIn (s : State) : s.issue.encIn = s.encIn := by
  rcases issue_cases s with h | ⟨-, -, h⟩ | ⟨-, -, h⟩ | ⟨-, -, h⟩ <;> simp [h]

@[simp] theorem takeAnswer_encIn (a : Answer) (s : State) : (s.takeAnswer a).encIn = s.encIn := by
  rcases takeAnswer_cases a s with h | ⟨-, -, -, h⟩ | ⟨-, -, -, h⟩ | ⟨-, -, -, h⟩ | ⟨-, -, -, h⟩ |
    ⟨-, -, -, h⟩ <;> simp [h]

/-- R20: no operation of CTRL touches ENC's input ports; only HOST drives them. -/
theorem encIn_kept (p : EncPorts Config.slotW) :
    KeptByOperations (fun ev => ∀ q, ev ≠ .encDrive q) (fun s => s.encIn = p) where
  sampled _ _ h := h
  inputs _ _ h := h
  issue s _ h := (issue_encIn s).trans h
  takeAnswer s a _ h := (takeAnswer_encIn a s).trans h
  takeFault s k _ h := (State.takeFault_encIn k s).trans h
  beginTransaction _ _ _ h := h
  construct _ _ _ _ h := h
  encDrive _ q hq _ := absurd rfl (hq q)

theorem step_encIn {s t : State} {sampled : List Input} (h : step s = .next t)
    (hin : s.inputs = sampled ++ t.inputs) (hquiet : ∀ p, Input.encDrive p ∉ sampled) : t.encIn = s.encIn :=
  (encIn_kept s.encIn).step h hin (fun _ hev q hq => hquiet q (hq ▸ hev)) rfl

theorem encOut_eq_of_encIn_eq {s t : State} (h : s.encIn = t.encIn) : s.encOut = t.encOut :=
  congrArg encPorts h

/-- Settles O14: ENC's outputs read its input ports alone, which only HOST drives. -/
theorem encIsStateless : Obligations.EncIsStateless :=
  ⟨fun _ _ => encOut_eq_of_encIn_eq, fun _ _ _ => step_encDrive,
    fun _ _ _ h hin hquiet => encOut_eq_of_encIn_eq (step_encIn h hin hquiet)⟩

end Sys2Proof.Proofs
end

section
/-! PROOFS. The invariant of the machine, phase by phase: what it says in each phase, then that each operation keeps it. -/

namespace Sys2Proof.Proofs

open Sys2Proof.Machine Sys2Proof.Safety

/-! ## Framing -/

/-- An event that has its place in the cycle of R139 after `p` takes the trace to the place `q`. -/
theorem framingOf_append {trace : List Event} {e : Event} {p q : Framing} (h : framingOf trace = some p)
    (he : frameEvent (some p) e = some q) : framingOf (trace ++ [e]) = some q := by
  rw [framingOf, List.foldl_append, ← framingOf, h]
  exact he

/-! ## What the invariant says in each phase -/

/-- What a transaction holds fixed (R139): chip-select low, no fault, no response, the filler latched when there is no data
byte. -/
def UnderWay (s : State) : Prop :=
  s.cs = 0 ∧ s.faultCode = none ∧ s.resp = none ∧ FillerLatched s

theorem ctrlInv_idle {s : State} (hp : s.phase = .idle) :
    CtrlInv s ↔ s.cs = 1 ∧ s.faultCode = none ∧ s.pending = none ∧ framingOf s.trace = some .high := by
  simp only [CtrlInv, RegistersAgree, TraceFramed, hp, and_assoc]

theorem ctrlInv_asserted {s : State} (hp : s.phase = .asserted) :
    CtrlInv s ↔ UnderWay s ∧
      ((s.pending = none ∧ framingOf s.trace = some .low) ∨
       (s.pending = some (.delay 1) ∧ framingOf s.trace = some .settled) ∨
       (s.pending = some (.send s.tx0) ∧ framingOf s.trace = some .sentOne)) := by
  rcases hq : s.pending with _ | (_ | _) <;>
    simp [CtrlInv, RegistersAgree, TraceFramed, UnderWay, hp, hq, and_assoc]

theorem ctrlInv_byteSent1 {s : State} (hp : s.phase = .byteSent1) :
    CtrlInv s ↔ UnderWay s ∧
      ((s.pending = none ∧ framingOf s.trace = some .sentOne) ∨
       (s.pending = some (.send s.tx1) ∧ framingOf s.trace = some .sentTwo)) := by
  cases hq : s.pending <;>
    simp [CtrlInv, RegistersAgree, TraceFramed, UnderWay, hp, hq, and_assoc]

theorem ctrlInv_byteSent2 {s : State} (hp : s.phase = .byteSent2) :
    CtrlInv s ↔ UnderWay s ∧
      ((s.pending = none ∧ framingOf s.trace = some .sentTwo) ∨
       (s.pending = some (.delay 1) ∧ framingOf s.trace = some .settledAgain)) := by
  cases hq : s.pending <;>
    simp [CtrlInv, RegistersAgree, TraceFramed, UnderWay, hp, hq, and_assoc]

theorem ctrlInv_faulted {s : State} {k : CtrlError} (hp : s.phase = .faulted) (hk : s.faultCode = some k) :
    CtrlInv s ↔ s.pending = none ∧ s.resp = none ∧
      (k ≠ .transportFailure → k ≠ .illegalRequest → s.cs = 1) ∧
      ∃ p, framingOf s.trace = some p ∧ p ≠ .start ∧ (k ≠ .transportFailure → k ≠ .illegalRequest → p = .high) := by
  simp [CtrlInv, RegistersAgree, TraceFramed, hp, hk, and_assoc]

/-- A transaction is past its `CsLow`. -/
theorem ctrlInv_busy_framed {s : State} (h : CtrlInv s) (hb : s.phase.busy = true) :
    ∃ p, framingOf s.trace = some p ∧ p ≠ .start := by
  rcases (Phase.busy_iff _).mp hb with hp | hp | hp
  · obtain ⟨-, ⟨-, hf⟩ | ⟨-, hf⟩ | ⟨-, hf⟩⟩ := (ctrlInv_asserted hp).mp h <;> exact ⟨_, hf, by decide⟩
  · obtain ⟨-, ⟨-, hf⟩ | ⟨-, hf⟩⟩ := (ctrlInv_byteSent1 hp).mp h <;> exact ⟨_, hf, by decide⟩
  · obtain ⟨-, ⟨-, hf⟩ | ⟨-, hf⟩⟩ := (ctrlInv_byteSent2 hp).mp h <;> exact ⟨_, hf, by decide⟩

/-- In every phase each event of the trace is in its place. -/
theorem ctrlInv_framed {s : State} (h : CtrlInv s) : ∃ p, framingOf s.trace = some p := by
  by_cases hb : s.phase.busy = true
  · obtain ⟨p, hf, -⟩ := ctrlInv_busy_framed h hb
    exact ⟨p, hf⟩
  · obtain ⟨-, hframed⟩ := h
    rcases (Phase.not_busy_iff _).mp (Bool.eq_false_iff.mpr hb) with hp | hp | hp <;>
      simp only [TraceFramed, hp] at hframed
    · exact ⟨_, hframed⟩
    · exact ⟨_, hframed⟩
    · obtain ⟨p, hf, -⟩ := hframed
      exact ⟨p, hf⟩

/-! ## Each operation keeps it -/

/-- Where the registers say something of the response, it is that there is none; sampling an input drops it. -/
theorem ctrlInv_sampled {s : State} (h : CtrlInv s) (rest : List Input) : CtrlInv (s.sampled rest) := by
  obtain ⟨hregs, hframed⟩ := h
  refine ⟨?_, hframed⟩
  rw [RegistersAgree] at hregs ⊢
  cases hp : s.phase <;> simp only [hp, State.sampled_phase] at hregs ⊢
  case idle => exact hregs
  case noHandle =>
    obtain ⟨htrace, hq, -⟩ := hregs
    exact ⟨htrace, hq, rfl⟩
  case faulted =>
    obtain ⟨hq, -, hfault⟩ := hregs
    exact ⟨hq, rfl, hfault⟩
  all_goals
    obtain ⟨hcs, hfault, -, hpoint⟩ := hregs
    exact ⟨hcs, hfault, rfl, hpoint⟩

/-- R31, R131: a construct needs nothing of the state before but its framing. -/
theorem ctrlInv_construct {s : State} (h : CtrlInv s) (fs n : Half) : CtrlInv (s.construct fs n) := by
  obtain ⟨p, hf⟩ := ctrlInv_framed h
  exact (ctrlInv_idle rfl).mpr ⟨rfl, rfl, rfl, framingOf_append hf rfl⟩

theorem ctrlInv_beginTransaction {s : State} (h : CtrlInv s) (hp : s.phase = .idle) (f : Frame) :
    CtrlInv (s.beginTransaction f) := by
  obtain ⟨-, hfault, -, hf⟩ := (ctrlInv_idle hp).mp h
  have hfiller : FillerLatched (s.beginTransaction f) := by
    intro hnone
    have hdata : f.dataByte = none := by simpa using hnone
    simp [hdata, Config.filler]
  exact (ctrlInv_asserted rfl).mpr ⟨⟨rfl, hfault, rfl, hfiller⟩, .inl ⟨rfl, framingOf_append hf rfl⟩⟩

theorem ctrlInv_issue {s : State} (h : CtrlInv s) : CtrlInv s.issue := by
  rcases issue_cases s with heq | ⟨hp, hq, heq⟩ | ⟨hp, hq, heq⟩ | ⟨hp, hq, heq⟩ <;> rw [heq]
  · exact h
  · obtain ⟨hway, ⟨-, hf⟩ | ⟨hq', -⟩ | ⟨hq', -⟩⟩ := (ctrlInv_asserted hp).mp h
    · exact (ctrlInv_asserted (s := s.delayMs _) hp).mpr ⟨hway, .inr (.inl ⟨rfl, framingOf_append hf rfl⟩)⟩
    all_goals exact absurd (hq.symm.trans hq') (by simp)
  · obtain ⟨hway, ⟨-, hf⟩ | ⟨hq', -⟩⟩ := (ctrlInv_byteSent1 hp).mp h
    · exact (ctrlInv_byteSent1 (s := s.sendByte _) hp).mpr ⟨hway, .inr ⟨rfl, framingOf_append hf rfl⟩⟩
    · exact absurd (hq.symm.trans hq') (by simp)
  · obtain ⟨hway, ⟨-, hf⟩ | ⟨hq', -⟩⟩ := (ctrlInv_byteSent2 hp).mp h
    · exact (ctrlInv_byteSent2 (s := s.delayMs _) hp).mpr ⟨hway, .inr ⟨rfl, framingOf_append hf rfl⟩⟩
    · exact absurd (hq.symm.trans hq') (by simp)

/-- R169: a fault taken in Idle leaves chip-select high. -/
theorem ctrlInv_takeFault_idle {s : State} (h : CtrlInv s) (hp : s.phase = .idle) (k : CtrlError) :
    CtrlInv (s.takeFault k) := by
  obtain ⟨hcs, -, -, hf⟩ := (ctrlInv_idle hp).mp h
  refine (ctrlInv_faulted rfl rfl).mpr ⟨rfl, rfl, fun hk _ => ?_, .high, ?_, by decide, fun _ _ => rfl⟩
  · rw [State.takeFault_cs, State.csAfterFault, if_neg hk, hcs]
  · rw [State.takeFault_trace, hf]

/-- R143, R145: the two faults of a transaction under way say nothing of chip-select. -/
theorem ctrlInv_takeFault_busy {s : State} (h : CtrlInv s) (hb : s.phase.busy = true) {k : CtrlError}
    (hk : k = .transportFailure ∨ k = .illegalRequest) : CtrlInv (s.takeFault k) := by
  obtain ⟨p, hf, hstart⟩ := ctrlInv_busy_framed h hb
  have hnot : ∀ {q : Prop}, k ≠ .transportFailure → k ≠ .illegalRequest → q :=
    fun ht hr => absurd hk (not_or.mpr ⟨ht, hr⟩)
  exact (ctrlInv_faulted rfl rfl).mpr
    ⟨rfl, rfl, hnot, p, (congrArg framingOf (State.takeFault_trace k s)).trans hf, hstart, hnot⟩

theorem ctrlInv_takeFault {s : State} (h : CtrlInv s) {k : CtrlError}
    (hk : s.phase = .idle ∨ (s.phase.busy = true ∧ k = .illegalRequest)) : CtrlInv (s.takeFault k) := by
  rcases hk with hp | ⟨hb, hk⟩
  · exact ctrlInv_takeFault_idle h hp k
  · exact ctrlInv_takeFault_busy h hb (.inr hk)

/-- R142: each answered request takes the trace to the place of the next phase or request. -/
theorem ctrlInv_takeAnswer {s : State} (h : CtrlInv s) (hb : s.phase.busy = true) (a : Answer) :
    CtrlInv (s.takeAnswer a) := by
  rcases takeAnswer_cases a s with heq | ⟨hp, ⟨n, hq⟩, -, heq⟩ | ⟨hp, ⟨b, hq⟩, -, heq⟩ | ⟨hp, ⟨b, hq⟩, -, heq⟩ |
    ⟨-, -, -, heq⟩ | ⟨hp, ⟨n, hq⟩, -, heq⟩ <;> rw [heq]
  · exact h
  · obtain ⟨hway, hpoint⟩ := (ctrlInv_asserted hp).mp h
    obtain ⟨-, hf⟩ : n = 1 ∧ framingOf s.trace = some .settled := by simpa [hq] using hpoint
    exact (ctrlInv_asserted (s := s.sendByte _) hp).mpr ⟨hway, .inr (.inr ⟨rfl, framingOf_append hf rfl⟩)⟩
  · obtain ⟨hway, hpoint⟩ := (ctrlInv_asserted hp).mp h
    obtain ⟨-, hf⟩ : b = s.tx0 ∧ framingOf s.trace = some .sentOne := by simpa [hq] using hpoint
    exact (ctrlInv_byteSent1 rfl).mpr ⟨hway, .inl ⟨rfl, hf⟩⟩
  · obtain ⟨hway, hpoint⟩ := (ctrlInv_byteSent1 hp).mp h
    obtain ⟨-, hf⟩ : b = s.tx1 ∧ framingOf s.trace = some .sentTwo := by simpa [hq] using hpoint
    exact (ctrlInv_byteSent2 rfl).mpr ⟨hway, .inl ⟨rfl, hf⟩⟩
  · exact ctrlInv_takeFault_busy h hb (.inl rfl)
  · obtain ⟨⟨-, hfault, -, -⟩, hpoint⟩ := (ctrlInv_byteSent2 hp).mp h
    obtain ⟨-, hf⟩ : n = 1 ∧ framingOf s.trace = some .settledAgain := by simpa [hq] using hpoint
    exact (ctrlInv_idle rfl).mpr ⟨rfl, hfault, rfl, framingOf_append hf rfl⟩

theorem ctrlInv_kept : KeptByOperations (fun _ => True) CtrlInv where
  sampled _ rest h := ctrlInv_sampled h rest
  inputs _ _ h := h
  issue _ _ h := ctrlInv_issue h
  takeAnswer _ a hb h := ctrlInv_takeAnswer h hb a
  takeFault _ _ hk h := ctrlInv_takeFault h hk
  beginTransaction _ f hp h := ctrlInv_beginTransaction h hp f
  construct _ fs n _ h := ctrlInv_construct h fs n
  encDrive _ _ _ h := h

/-- Settles O46: each of CTRL's operations keeps the invariant, so every step does. -/
theorem stepKeepsTheInvariant : Obligations.StepKeepsTheInvariant := fun _ _ hs h =>
  ctrlInv_kept.every_step h hs

end Sys2Proof.Proofs
end

section
/-! PROOFS. CTRL's output ports as its registers give them (10_state.md R37, R38), one lemma per port, and the codes of
the fault and of the phase (R26, R28), which tell their values apart. -/

namespace Sys2Proof.Proofs

open Sys2Proof.Machine

/-- R28, R160: no two fault registers have one code. -/
theorem faultCodeBits_injective : Function.Injective faultCodeBits := by
  rintro (_ | (_ | _)) (_ | (_ | _)) <;> simp [faultCodeBits]

theorem faultCodeBits_lt (k : Option CtrlError) : (faultCodeBits k).toNat < 7 := by
  rcases k with _ | (_ | _) <;> decide

/-- R26: no two phases have one code. -/
theorem phaseCode_injective : Function.Injective Phase.code := by
  intro p q
  cases p <;> cases q <;> simp [Phase.code]

theorem ctrlOut_busy_iff (s : State) :
    s.ctrlOut.busy = true ↔ s.phase = .asserted ∨ s.phase = .byteSent1 ∨ s.phase = .byteSent2 :=
  Phase.busy_iff s.phase

theorem ctrlOut_faulted_iff (s : State) : s.ctrlOut.faulted = true ↔ s.phase = .faulted :=
  decide_eq_true_iff

theorem ctrlOut_faultCode_eq_iff (s : State) (k : Option CtrlError) :
    s.ctrlOut.faultCode = faultCodeBits k ↔ s.faultCode = k :=
  faultCodeBits_injective.eq_iff

theorem phaseCode_eq_iff (s : State) (p : Phase) : s.phase.code = p.code ↔ s.phase = p :=
  phaseCode_injective.eq_iff

theorem ctrlOut_done_iff (s : State) : s.ctrlOut.done = true ↔ s.resp ≠ none := by
  rcases hr : s.resp with _ | ⟨b, _ | x⟩ <;> simp [State.ctrlOut, respPorts, hr]

/-- R37, R141: the response ports while `done` is 1. -/
theorem ctrlOut_resp {s : State} {r : Response} (hr : s.resp = some r) :
    s.ctrlOut.respCmdByte = r.cmdByte ∧ s.ctrlOut.respDataValid = r.dataByte.isSome ∧
      ∀ x, r.dataByte = some x → s.ctrlOut.respDataByte = x := by
  obtain ⟨b, _ | x⟩ := r <;> simp [State.ctrlOut, respPorts, hr]

theorem ctrlOut_txReq_iff (s : State) : s.ctrlOut.txReq = true ↔ ∃ b, s.pending = some (.send b) := by
  rcases hq : s.pending with _ | (_ | _) <;> simp [State.ctrlOut, txPorts, hq]

theorem ctrlOut_txByte {s : State} {b : Byte} (hq : s.pending = some (.send b)) : s.ctrlOut.txByte = b := by
  simp [State.ctrlOut, txPorts, hq]

theorem ctrlOut_dlyReq_iff (s : State) : s.ctrlOut.dlyReq = true ↔ ∃ n, s.pending = some (.delay n) := by
  rcases hq : s.pending with _ | (_ | _) <;> simp [State.ctrlOut, dlyPorts, hq]

theorem ctrlOut_dlyMs {s : State} {n : Half} (hq : s.pending = some (.delay n)) : s.ctrlOut.dlyMs = n := by
  simp [State.ctrlOut, dlyPorts, hq]

/-- Settles O40: each port follows its register, and each code is that of one register value alone. -/
theorem statusOutputsFollowRegisters : Obligations.StatusOutputsFollowRegisters := fun s _ =>
  ⟨ctrlOut_busy_iff s, ctrlOut_faulted_iff s,
    ctrlOut_faultCode_eq_iff s none, ctrlOut_faultCode_eq_iff s (some .invalidCombination),
    ctrlOut_faultCode_eq_iff s (some .outOfRangeAddress), ctrlOut_faultCode_eq_iff s (some .illegalSelector),
    ctrlOut_faultCode_eq_iff s (some .scaleDivByZero), ctrlOut_faultCode_eq_iff s (some .transportFailure),
    ctrlOut_faultCode_eq_iff s (some .illegalRequest),
    phaseCode_eq_iff s .idle, phaseCode_eq_iff s .asserted, phaseCode_eq_iff s .byteSent1,
    phaseCode_eq_iff s .byteSent2, phaseCode_eq_iff s .faulted,
    faultCodeBits_lt s.faultCode, rfl, ctrlOut_done_iff s, fun _ => ctrlOut_resp,
    ctrlOut_txReq_iff s, fun _ => ctrlOut_txByte, ctrlOut_dlyReq_iff s, fun _ => ctrlOut_dlyMs⟩

end Sys2Proof.Proofs
end

section
/-! PROOFS. What an instruction does on the capabilities depends on the request and the answers alone (20_memory.md R50):
two transactions on one frame that meet the same inputs go in lockstep, whatever else their states hold. -/

namespace Sys2Proof.Proofs

open Sys2Proof.Machine

/-! ## Two runs in lockstep -/

/-- The runs that came from `s₁` to `t₁` and from `s₂` to `t₂` appended the same events. -/
def SameEvents (s₁ s₂ t₁ t₂ : State) : Prop :=
  ∃ events, t₁.trace = s₁.trace ++ events ∧ t₂.trace = s₂.trace ++ events

/-- R29: the transaction latches agree. -/
def SameLatches (t₁ t₂ : State) : Prop :=
  t₁.tx0 = t₂.tx0 ∧ t₁.tx1 = t₂.tx1 ∧ t₁.txHasData = t₂.txHasData

/-- The simulation relation of the two runs: what the capabilities and HOST see agrees. The latches agree only during a
transaction; outside one they hold any value (R31). -/
structure InLockstep (s₁ s₂ t₁ t₂ : State) : Prop where
  events : SameEvents s₁ s₂ t₁ t₂
  phase : t₁.phase = t₂.phase
  pending : t₁.pending = t₂.pending
  resp : t₁.resp = t₂.resp
  inputs : t₁.inputs = t₂.inputs
  latches : t₁.phase.busy = true → SameLatches t₁ t₂

theorem SameEvents.refl (s₁ s₂ : State) : SameEvents s₁ s₂ s₁ s₂ :=
  ⟨[], by simp⟩

section

variable {s₁ s₂ t₁ t₂ : State}

theorem SameEvents.of_eq {t₁' t₂' : State} (h : SameEvents s₁ s₂ t₁ t₂) (h₁ : t₁'.trace = t₁.trace)
    (h₂ : t₂'.trace = t₂.trace) : SameEvents s₁ s₂ t₁' t₂' := by
  rwa [SameEvents, h₁, h₂]

theorem SameEvents.of_append {t₁' t₂' : State} {e : Event} (h : SameEvents s₁ s₂ t₁ t₂)
    (h₁ : t₁'.trace = t₁.trace ++ [e]) (h₂ : t₂'.trace = t₂.trace ++ [e]) : SameEvents s₁ s₂ t₁' t₂' := by
  obtain ⟨events, ht₁, ht₂⟩ := h
  exact ⟨events ++ [e], by rw [h₁, ht₁, List.append_assoc], by rw [h₂, ht₂, List.append_assoc]⟩

/-- R141: the response is read from the latches. -/
theorem SameLatches.response_eq (h : SameLatches t₁ t₂) : t₁.response = t₂.response := by
  obtain ⟨h0, h1, hd⟩ := h
  simp only [State.response, h0, h1, hd]

/-! ## The operations keep the lockstep -/

theorem InLockstep.delayMs (h : InLockstep s₁ s₂ t₁ t₂) (n : Half) :
    InLockstep s₁ s₂ (t₁.delayMs n) (t₂.delayMs n) where
  events := h.events.of_append rfl rfl
  phase := h.phase
  pending := rfl
  resp := h.resp
  inputs := h.inputs
  latches := h.latches

theorem InLockstep.sendByte (h : InLockstep s₁ s₂ t₁ t₂) (b : Byte) :
    InLockstep s₁ s₂ (t₁.sendByte b) (t₂.sendByte b) where
  events := h.events.of_append rfl rfl
  phase := h.phase
  pending := rfl
  resp := h.resp
  inputs := h.inputs
  latches := h.latches

theorem InLockstep.byteSent (h : InLockstep s₁ s₂ t₁ t₂) (hb : t₁.phase.busy = true) (p : Phase) :
    InLockstep s₁ s₂ (t₁.byteSent p) (t₂.byteSent p) where
  events := h.events.of_eq rfl rfl
  phase := rfl
  pending := rfl
  resp := h.resp
  inputs := h.inputs
  latches _ := h.latches hb

theorem InLockstep.completeTransaction (h : InLockstep s₁ s₂ t₁ t₂) (hb : t₁.phase.busy = true) :
    InLockstep s₁ s₂ t₁.completeTransaction t₂.completeTransaction where
  events := h.events.of_append rfl rfl
  phase := rfl
  pending := rfl
  resp := congrArg some (h.latches hb).response_eq
  inputs := h.inputs
  latches hidle := absurd hidle Bool.false_ne_true

/-- R169: a fault is no event, whatever the phase it is taken in. -/
theorem inLockstep_takeFault (hev : SameEvents s₁ s₂ t₁ t₂) (hin : t₁.inputs = t₂.inputs) (k : CtrlError) :
    InLockstep s₁ s₂ (t₁.takeFault k) (t₂.takeFault k) where
  events := hev.of_eq (State.takeFault_trace k t₁) (State.takeFault_trace k t₂)
  phase := rfl
  pending := rfl
  resp := rfl
  inputs := by simpa using hin
  latches hfaulted := absurd hfaulted Bool.false_ne_true

theorem inLockstep_construct (hev : SameEvents s₁ s₂ t₁ t₂) (hin : t₁.inputs = t₂.inputs) (fs n : Half) :
    InLockstep s₁ s₂ (t₁.construct fs n) (t₂.construct fs n) where
  events := hev.of_append rfl rfl
  phase := rfl
  pending := rfl
  resp := rfl
  inputs := hin
  latches hidle := absurd hidle Bool.false_ne_true

/-- R139: the latches come from the frame, so two transactions on one frame start in lockstep. -/
theorem inLockstep_beginTransaction (hev : SameEvents s₁ s₂ t₁ t₂) (hin : t₁.inputs = t₂.inputs) (f : Frame) :
    InLockstep s₁ s₂ (t₁.beginTransaction f) (t₂.beginTransaction f) where
  events := hev.of_append rfl rfl
  phase := rfl
  pending := rfl
  resp := rfl
  inputs := hin
  latches _ := ⟨rfl, rfl, rfl⟩

theorem InLockstep.encDrive (h : InLockstep s₁ s₂ t₁ t₂) (p : EncPorts Config.slotW) :
    InLockstep s₁ s₂ { t₁ with encIn := p } { t₂ with encIn := p } where
  events := h.events.of_eq rfl rfl
  phase := h.phase
  pending := h.pending
  resp := h.resp
  inputs := h.inputs
  latches := h.latches

theorem InLockstep.withInputs (h : InLockstep s₁ s₂ t₁ t₂) (rest : List Input) :
    InLockstep s₁ s₂ { t₁ with inputs := rest } { t₂ with inputs := rest } where
  events := h.events.of_eq rfl rfl
  phase := h.phase
  pending := h.pending
  resp := h.resp
  inputs := rfl
  latches := h.latches

/-! ## A transaction keeps the lockstep -/

/-- Which request is issued depends on the phase and on what is outstanding alone: `issue_cases` for two states. -/
theorem issue_cases_together (hphase : t₁.phase = t₂.phase) (hpending : t₁.pending = t₂.pending) :
    (t₁.issue = t₁ ∧ t₂.issue = t₂) ∨
      (t₁.issue = t₁.delayMs Config.settleMs ∧ t₂.issue = t₂.delayMs Config.settleMs) ∨
      (t₁.phase = .byteSent1 ∧ t₁.issue = t₁.sendByte t₁.tx1 ∧ t₂.issue = t₂.sendByte t₂.tx1) := by
  cases hp : t₁.phase <;> cases hq : t₁.pending <;>
    simp [State.issue, ← hphase, ← hpending, hp, hq]

theorem InLockstep.issue (h : InLockstep s₁ s₂ t₁ t₂) : InLockstep s₁ s₂ t₁.issue t₂.issue := by
  rcases issue_cases_together h.phase h.pending with ⟨h₁, h₂⟩ | ⟨h₁, h₂⟩ | ⟨hp, h₁, h₂⟩ <;> rw [h₁, h₂]
  · exact h
  · exact h.delayMs _
  · obtain ⟨-, htx1, -⟩ := h.latches ((Phase.busy_iff _).mpr (.inr (.inl hp)))
    exact htx1 ▸ h.sendByte t₁.tx1

/-- What an answer does depends on the phase and on what is outstanding alone: `takeAnswer_cases` for two states. -/
theorem takeAnswer_cases_together (a : Answer) (hphase : t₁.phase = t₂.phase) (hpending : t₁.pending = t₂.pending) :
    (t₁.takeAnswer a = t₁ ∧ t₂.takeAnswer a = t₂) ∨
      (t₁.takeAnswer a = t₁.takeFault .transportFailure ∧ t₂.takeAnswer a = t₂.takeFault .transportFailure) ∨
      (t₁.phase = .asserted ∧ t₁.takeAnswer a = t₁.sendByte t₁.tx0 ∧ t₂.takeAnswer a = t₂.sendByte t₂.tx0) ∨
      (t₁.phase = .asserted ∧ t₁.takeAnswer a = t₁.byteSent .byteSent1 ∧ t₂.takeAnswer a = t₂.byteSent .byteSent1) ∨
      (t₁.phase = .byteSent1 ∧ t₁.takeAnswer a = t₁.byteSent .byteSent2 ∧ t₂.takeAnswer a = t₂.byteSent .byteSent2) ∨
      (t₁.phase = .byteSent2 ∧ t₁.takeAnswer a = t₁.completeTransaction ∧
        t₂.takeAnswer a = t₂.completeTransaction) := by
  cases hp : t₁.phase <;> rcases hq : t₁.pending with _ | (_ | _) <;> cases a <;>
    simp [State.takeAnswer, ← hphase, ← hpending, hp, hq]

theorem InLockstep.takeAnswer (h : InLockstep s₁ s₂ t₁ t₂) (a : Answer) :
    InLockstep s₁ s₂ (t₁.takeAnswer a) (t₂.takeAnswer a) := by
  rcases takeAnswer_cases_together a h.phase h.pending with ⟨h₁, h₂⟩ | ⟨h₁, h₂⟩ | ⟨hp, h₁, h₂⟩ | ⟨hp, h₁, h₂⟩ |
    ⟨hp, h₁, h₂⟩ | ⟨hp, h₁, h₂⟩ <;> rw [h₁, h₂]
  · exact h
  · exact inLockstep_takeFault h.events h.inputs _
  · obtain ⟨htx0, -, -⟩ := h.latches ((Phase.busy_iff _).mpr (.inl hp))
    exact htx0 ▸ h.sendByte t₁.tx0
  · exact h.byteSent ((Phase.busy_iff _).mpr (.inl hp)) _
  · exact h.byteSent ((Phase.busy_iff _).mpr (.inr (.inl hp))) _
  · exact h.completeTransaction ((Phase.busy_iff _).mpr (.inr (.inr hp)))

theorem InLockstep.absorb (h : InLockstep s₁ s₂ t₁ t₂) (ev : Input) :
    InLockstep s₁ s₂ (t₁.absorb ev) (t₂.absorb ev) := by
  cases ev with
  | construct fs n => exact inLockstep_construct h.events h.inputs fs n
  | request _ => exact inLockstep_takeFault h.events h.inputs .illegalRequest
  | encDrive p => exact h.encDrive p
  | answer a => exact h.issue.takeAnswer a
  | quiet => exact h.issue

/-- Both transactions leave the busy phases on the same input, or both hold at the end of the inputs. -/
theorem InLockstep.drive (inputs : List Input) (h : InLockstep s₁ s₂ t₁ t₂) :
    InLockstep s₁ s₂ (drive inputs t₁) (drive inputs t₂) := by
  induction inputs generalizing t₁ t₂ with
  | nil => exact h.issue.withInputs []
  | cons ev rest ih =>
    have habsorb := h.absorb ev
    rw [Machine.drive, Machine.drive, ← habsorb.phase]
    by_cases hb : (t₁.absorb ev).phase.busy = true
    · rw [if_pos hb, if_pos hb]
      exact ih habsorb
    · rw [if_neg hb, if_neg hb]
      exact habsorb.withInputs rest

end

/-! ## An instruction -/

/-- R138, R139: in Idle the request alone decides whether it faults or starts a transaction, and on which frame. -/
theorem exec_idle_cases (i : Instr) :
    (∃ k, ∀ s : State, s.phase = .idle → exec i s = .next (s.takeFault k)) ∨
      ∃ f, ∀ s : State, s.phase = .idle → exec i s = .next (drive s.inputs (s.beginTransaction f)) := by
  simp only [exec_eq_sendCommand]
  cases hm : resolveAddress i.address with
  | error e => exact .inl ⟨encFault e, fun s hp => by simp only [sendCommand, sendCommandWith, whenIdle_idle hp, hm]⟩
  | ok m =>
    cases hf : compose m i.command i.data with
    | error e =>
      rw [compose] at hf
      exact .inl ⟨encFault e, fun s hp => by simp only [sendCommand, sendCommandWith, whenIdle_idle hp, hm, hf]⟩
    | ok f => exact .inr ⟨f, fun s hp => sendCommand_composed hp hm hf⟩

theorem exec_inLockstep {i : Instr} {s₁ s₂ t₁ t₂ : State} (hp₁ : s₁.phase = .idle) (hp₂ : s₂.phase = .idle)
    (hin : s₁.inputs = s₂.inputs) (h₁ : exec i s₁ = .next t₁) (h₂ : exec i s₂ = .next t₂) :
    InLockstep s₁ s₂ t₁ t₂ := by
  have hstart := SameEvents.refl s₁ s₂
  rcases exec_idle_cases i with ⟨k, hk⟩ | ⟨f, hf⟩
  · obtain rfl := Host.Outcome.next.inj ((hk s₁ hp₁).symm.trans h₁)
    obtain rfl := Host.Outcome.next.inj ((hk s₂ hp₂).symm.trans h₂)
    exact inLockstep_takeFault hstart hin k
  · obtain rfl := Host.Outcome.next.inj ((hf s₁ hp₁).symm.trans h₁)
    obtain rfl := Host.Outcome.next.inj ((hf s₂ hp₂).symm.trans h₂)
    rw [← hin]
    exact (inLockstep_beginTransaction hstart hin f).drive s₁.inputs

/-- Settles O48: the request decides how both runs begin, every input keeps them in lockstep, and the lockstep holds what
the statement compares. -/
theorem eventsDependOnlyOnTheRequest : Obligations.EventsDependOnlyOnTheRequest := by
  intro i s₁ s₂ t₁ t₂ hp₁ hp₂ hin h₁ h₂
  have h := exec_inLockstep hp₁ hp₂ hin h₁ h₂
  exact ⟨h.events, h.phase, h.resp, h.pending, h.inputs⟩

end Sys2Proof.Proofs
end

section
/-! PROOFS. The composed frame as bit fields (30_encoding.md R60 to R66, 41_compose.md R101 to R108): address code, command
code and data bits 9:8 in the command byte, data bits 7:0 in the data byte; and the frame's two wire bytes as the row's
pattern (R65, R68). -/

namespace Sys2Proof.Proofs

open Sys2Proof.Machine

/-! ## Fields of a word -/

/-- Two words of the same fields' widths are equal exactly when both fields are. -/
theorem append_eq_append_iff {m n : Nat} {x x' : BitVec m} {y y' : BitVec n} :
    x ++ y = x' ++ y' ↔ x = x' ∧ y = y' := by
  refine ⟨fun h => ⟨?_, ?_⟩, fun ⟨hx, hy⟩ => hx ▸ hy ▸ rfl⟩
  · simpa only [BitVec.extractLsb'_append_eq_left] using congrArg (·.extractLsb' n m) h
  · simpa only [BitVec.extractLsb'_append_eq_right] using congrArg (·.extractLsb' 0 n) h

/-- The high field of a word counts in multiples of the low field's range. -/
theorem toNat_append_eq_add {m n : Nat} (x : BitVec m) (y : BitVec n) :
    (x ++ y).toNat = x.toNat * 2 ^ n + y.toNat := by
  rw [BitVec.toNat_append, ← Nat.shiftLeft_add_eq_or_of_lt y.isLt, Nat.shiftLeft_eq]

/-- `d10` is its bits 9:8 and its bits 7:0 (R66). -/
theorem data10_fields (d : BitVec 10) : d.extractLsb' 8 2 ++ d.extractLsb' 0 8 = d :=
  BitVec.extractLsb'_append_extractLsb' (w := 2) (len := 8)

/-! ## The command byte -/

/-- The constructed address has the code that field A of the wire word holds (R41, R90). -/
theorem addrCode_eq_wireCode {a : AddressOperand} {m : MemoryAddress} (h : resolveAddress a = .ok m) :
    addrCode m = a.wireCode := by
  cases a with
  | dataEEPROM slot =>
    by_cases hs : slot < 10
    · simp only [resolveAddress, makeDataEEPROM, hs, dite_true, Except.ok.injEq] at h
      subst h
      exact (BitVec.ofNat_add 5 slot).symm
    · simp [resolveAddress, makeDataEEPROM, hs] at h
  | _ =>
    simp only [resolveAddress, Except.ok.injEq] at h
    subst h
    rfl

/-- R62, R90: the address code stands in bits 7:4, and nothing else. -/
theorem addrPos_eq_append (m : MemoryAddress) : addrPos m = addrCode m ++ 0#4 := by
  have shift_code : ∀ k : BitVec 4, k.setWidth 8 <<< 4 = k ++ 0#4 := by decide
  exact shift_code (addrCode m)

/-- R103: the command byte of a Write. -/
theorem addrPos_or_dataHigh (m : MemoryAddress) (v : Half) :
    addrPos m ||| dataHigh v = addrCode m ++ 0#2 ++ (data10 v).extractLsb' 8 2 := by
  have or_fields : ∀ (k : BitVec 4) (x : BitVec 2), (k ++ 0#4) ||| x.setWidth 8 = k ++ 0#2 ++ x := by decide
  rw [addrPos_eq_append]
  exact or_fields _ _

/-- R104 to R107: the command byte of a command without data whose code `c` stands in bits 3:2. -/
theorem addrPos_or_code (m : MemoryAddress) (c : BitVec 2) :
    addrPos m ||| (0#4 ++ c ++ 0#2) = addrCode m ++ c ++ 0#2 := by
  have or_fields : ∀ (k : BitVec 4) (c : BitVec 2), (k ++ 0#4) ||| (0#4 ++ c ++ 0#2) = k ++ c ++ 0#2 := by decide
  rw [addrPos_eq_append]
  exact or_fields _ _

/-! ## Composition -/

/-- Everything `compose` can answer with a frame: a Write with data, or another command without (R101, R102). -/
theorem composeWith_ok {dwl : Byte} {m : MemoryAddress} {c : Command} {d : Option Half} {f : Frame}
    (h : composeWith dwl m c d = .ok f) :
    (∃ v, c = .write ∧ d = some v ∧ f = ⟨addrPos m ||| dataHigh v, some (dataLow v)⟩) ∨
      (c ≠ .write ∧ d = none ∧ f = ⟨addrPos m ||| cmdPosWith dwl c, none⟩) := by
  by_cases hc : c = .write
  · cases d with
    | none => simp [composeWith, hc] at h
    | some v =>
      subst hc
      rw [composeWith_write] at h
      exact .inl ⟨v, rfl, rfl, (Except.ok.inj h).symm⟩
  · cases d with
    | none =>
      rw [composeWith_dataless dwl m hc] at h
      exact .inr ⟨hc, rfl, (Except.ok.inj h).symm⟩
    | some v => simp [composeWith, hc] at h

theorem compose_write (m : MemoryAddress) (v : Half) :
    compose m .write (some v) = .ok ⟨addrPos m ||| dataHigh v, some (dataLow v)⟩ :=
  composeWith_write Config.dwlPos m v

/-- R66: bits 15:10 of the data are not among `d10`. -/
theorem data10_masked (v : Half) : data10 (BitVec.ofNat 16 (v.toNat % 1024)) = data10 v := by
  apply BitVec.eq_of_toNat_eq
  simp only [data10, BitVec.extractLsb'_toNat, BitVec.toNat_ofNat, Nat.shiftRight_zero]
  omega

/-- R66: the frame of a Write reads its data as `d10`. -/
theorem compose_write_congr (m : MemoryAddress) {v v' : Half} (h : data10 v = data10 v') :
    compose m .write (some v) = compose m .write (some v') := by
  simp only [compose_write, dataHigh, dataLow, h]

/-- Settles O6: the command byte is the fields code, 00 and data bits 9:8, which are read off as numbers; data with the
same `d10` has the same frame. -/
theorem writeFrameSplitsTheData : Obligations.WriteFrameSplitsTheData := by
  intro m v
  refine ⟨_, _, compose_write m v, ?_, ?_, compose_write_congr m (data10_masked v)⟩
  · rw [addrPos_or_dataHigh, toNat_append_eq_add, toNat_append_eq_add]
    simp only [data10, BitVec.extractLsb'_toNat, BitVec.toNat_ofNat]
    omega
  · simp only [dataLow, data10, BitVec.extractLsb'_toNat]
    omega

/-- R107: EnableWiperLock composes as Increment, also where its data is illegal. -/
theorem composeWith_enableWiperLock (dwl : Byte) (m : MemoryAddress) (d : Option Half) :
    composeWith dwl m .enableWiperLock d = composeWith dwl m .increment d := by
  cases d <;> rfl

/-- Settles O9: the two commands differ in no frame, and `send_command` reads a command through its frame alone. -/
theorem enableWiperLockIsIncrement : Obligations.EnableWiperLockIsIncrement := by
  refine ⟨composeWith_enableWiperLock Config.dwlPos, fun a d s => ?_⟩
  simp only [exec_eq_sendCommand, Instr.address, Instr.command, Instr.data, sendCommand, sendCommandWith,
    composeWith_enableWiperLock]

/-! ## The wire bytes of a frame -/

/-- R65, R68: the wire bytes of a Write's frame. -/
theorem wireWord_write (m : MemoryAddress) (v : Half) :
    wireWord ⟨addrPos m ||| dataHigh v, some (dataLow v)⟩ = addrCode m ++ 0#2 ++ data10 v := by
  rw [wireWord, addrPos_or_dataHigh, Option.getD_some, dataLow]
  conv_rhs => rw [← data10_fields (data10 v)]
  exact BitVec.append_assoc

/-- R65, R68: the wire bytes of a dataless frame, the filler in the second. -/
theorem wireWord_code (m : MemoryAddress) (c : BitVec 2) :
    wireWord ⟨addrPos m ||| (0#4 ++ c ++ 0#2), none⟩ = addrCode m ++ c ++ 0#10 := by
  rw [wireWord, addrPos_or_code]
  exact BitVec.append_assoc (x₁ := addrCode m ++ c) (x₂ := 0#2) (x₃ := 0#8)

/-- R63, R68: the wire bytes of a DISWL frame. -/
theorem wireWord_disableWiperLock (dwl : Byte) (m : MemoryAddress) :
    wireWord ⟨addrPos m ||| dwl, none⟩ = ((addrCode m ++ 0#4) ||| dwl) ++ 0x00#8 := by
  rw [wireWord, addrPos_eq_append]
  rfl

/-- Settles O16: a frame exists for a Write with data and for another command without; each is its row's pattern at the
address's code. -/
theorem composedFrameIsTheWirePattern : Obligations.ComposedFrameIsTheWirePattern := by
  intro dwl i m f hm hf
  have hcode : addrCode m = i.address.wireCode := addrCode_eq_wireCode hm
  rcases composeWith_ok hf with ⟨v, hc, hd, rfl⟩ | ⟨hc, -, rfl⟩
  · rw [wireWord_write, hcode]
    cases i with
    | write a d =>
      obtain rfl : d = some v := hd
      rfl
    | incr | decr | read | enwl | diswl => exact Command.noConfusion hc
  · cases i with
    | write => exact absurd rfl hc
    | incr | enwl => exact (wireWord_code m 0b01#2).trans (hcode ▸ rfl)
    | decr => exact (wireWord_code m 0b10#2).trans (hcode ▸ rfl)
    | read => exact (wireWord_code m 0b11#2).trans (hcode ▸ rfl)
    | diswl => exact (wireWord_disableWiperLock dwl m).trans (hcode ▸ rfl)

end Sys2Proof.Proofs
end

section
/-! PROOFS. The wire decoder read by fields (30_encoding.md R68): address code, command code and `d10`. Each row test of the
decoder is a test of fields, so a word it accepts is the word of its answer, and every instruction's word is accepted. -/

namespace Sys2Proof.Proofs

open Sys2Proof.Machine

/-! ## Register codes -/

/-- Every code is the code of the address read from it. -/
theorem wireCode_ofCode : ∀ k : BitVec 4, (AddressOperand.ofCode k).wireCode = k := by decide

/-- The address read from a code can be constructed (R81). -/
theorem ofCode_inRange : ∀ k : BitVec 4, (AddressOperand.ofCode k).inRange = true := by decide

theorem wf_of_address_ofCode {i : Instr} {k : BitVec 4} (ha : i.address = AddressOperand.ofCode k)
    (hd : i.command.dataLegal i.data = true) : i.wf = true := by
  rw [Instr.wf, ha, ofCode_inRange, hd, Bool.and_self]

/-! ## The fields of a wire word -/

/-- A word is any two parts that together have its width. -/
theorem exists_append {m n : Nat} (w : BitVec (m + n)) : ∃ (x : BitVec m) (y : BitVec n), w = x ++ y :=
  ⟨_, _, BitVec.extractLsb'_append_extractLsb'.symm⟩

/-- Fields A, C and the ten bits below them. -/
theorem exists_fields (w : Half) : ∃ (k : BitVec 4) (c : BitVec 2) (d : BitVec 10), w = k ++ c ++ d := by
  obtain ⟨high, d, rfl⟩ := exists_append (m := 6) (n := 10) w
  obtain ⟨k, c, rfl⟩ := exists_append (m := 4) (n := 2) high
  exact ⟨k, c, d, rfl⟩

/-- The high field of three. -/
theorem extractLsb'_high_field {m n l : Nat} (k : BitVec l) (c : BitVec m) (d : BitVec n) :
    (k ++ c ++ d).extractLsb' (n + m) l = k := by
  rw [BitVec.extractLsb'_append_eq_of_le (by omega), Nat.add_sub_cancel_left]
  exact BitVec.extractLsb'_append_eq_left

section

variable (k : BitVec 4) (c : BitVec 2) (d : BitVec 10)

theorem fields_code : (k ++ c ++ d).extractLsb' 12 4 = k :=
  extractLsb'_high_field k c d

theorem fields_data : (k ++ c ++ d) &&& 0x03FF#16 = d.setWidth 16 := by
  have hmask : 0x03FF#16 = 0#4 ++ 0#2 ++ BitVec.allOnes 10 := by decide
  rw [hmask, BitVec.and_append, BitVec.and_append, BitVec.and_zero, BitVec.and_zero, BitVec.and_allOnes,
    BitVec.setWidth_eq_append (by omega)]
  rfl

/-- The decoder's test for row WRITE is of field C. -/
theorem writeRow_iff : (k ++ c ++ d) &&& 0x0C00#16 = 0x0000#16 ↔ c = 0#2 := by
  have hmask : 0x0C00#16 = 0#4 ++ BitVec.allOnes 2 ++ 0#10 := by decide
  have hmatch : 0x0000#16 = 0#4 ++ 0#2 ++ 0#10 := by decide
  rw [hmask, hmatch, BitVec.and_append, BitVec.and_append, append_eq_append_iff, append_eq_append_iff]
  simp only [BitVec.and_zero, BitVec.and_allOnes, true_and, and_true]

/-- Its tests for the rows without data are of field C and of the ten bits below it. -/
theorem datalessRow_iff (c' : BitVec 2) : (k ++ c ++ d) &&& 0x0FFF#16 = 0#4 ++ c' ++ 0#10 ↔ c = c' ∧ d = 0#10 := by
  have hmask : 0x0FFF#16 = 0#4 ++ BitVec.allOnes 2 ++ BitVec.allOnes 10 := by decide
  rw [hmask, BitVec.and_append, BitVec.and_append, append_eq_append_iff, append_eq_append_iff]
  simp only [BitVec.and_zero, BitVec.and_allOnes, true_and]

end

/-! ## Row DISWL -/

/-- The decoder's test for row DISWL (R63, R68). -/
abbrev DiswlRow (dwl : Byte) (w : Half) : Prop :=
  w &&& ((dwl ||| 0x0F#8) ++ 0xFF#8) = dwl ++ 0x00#8

section

variable (p n k : BitVec 4)

/-- The DISWL word of the code `k`, where the nibbles of `DWL_POS` are `p` and `n`. -/
theorem diswlWord_nibbles : ((k ++ 0#4) ||| (p ++ n)) ++ 0x00#8 = (k ||| p) ++ n ++ 0x00#8 := by
  rw [BitVec.or_append, BitVec.zero_or]

/-- The test by nibbles: the code has the bits of `p`, the low nibble of the command byte is `n`, the second byte is 0. -/
theorem diswlRow_nibbles (m : BitVec 4) (b : Byte) :
    DiswlRow (p ++ n) (k ++ m ++ b) ↔ k &&& p = p ∧ m = n ∧ b = 0x00#8 := by
  have hnibble : 0x0F#8 = 0#4 ++ BitVec.allOnes 4 := by decide
  have hbyte : 0xFF#8 = BitVec.allOnes 8 := by decide
  rw [DiswlRow, hnibble, hbyte, BitVec.or_append, BitVec.and_append, BitVec.and_append, append_eq_append_iff,
    append_eq_append_iff]
  simp only [BitVec.or_zero, BitVec.or_allOnes, BitVec.and_allOnes, and_assoc]

end

/-- A word of row DISWL is the DISWL word of the code that stands in it. -/
theorem DiswlRow.word_eq {dwl : Byte} {w : Half} (h : DiswlRow dwl w) :
    ((w.extractLsb' 12 4 ++ 0#4) ||| dwl) ++ 0x00#8 = w := by
  have or_of_and : ∀ k p : BitVec 4, k &&& p = p → k ||| p = k := by decide
  obtain ⟨high, b, rfl⟩ := exists_append (m := 8) (n := 8) w
  obtain ⟨k, m, rfl⟩ := exists_append (m := 4) (n := 4) high
  obtain ⟨p, n, rfl⟩ := exists_append (m := 4) (n := 4) dwl
  obtain ⟨hk, rfl, rfl⟩ := (diswlRow_nibbles p n k m b).mp h
  have hcode : (k ++ m ++ 0x00#8).extractLsb' 12 4 = k := extractLsb'_high_field k m 0x00#8
  rw [hcode, diswlWord_nibbles, or_of_and k p hk]

/-- The DISWL word of every code is a word of row DISWL. -/
theorem diswlRow_word (dwl : Byte) (k : BitVec 4) : DiswlRow dwl (((k ++ 0#4) ||| dwl) ++ 0x00#8) := by
  have and_or : ∀ k p : BitVec 4, (k ||| p) &&& p = p := by decide
  obtain ⟨p, n, rfl⟩ := exists_append (m := 4) (n := 4) dwl
  rw [diswlWord_nibbles]
  exact (diswlRow_nibbles p n _ n _).mpr ⟨and_or k p, rfl, rfl⟩

/-! ## The decoder -/

/-- What the wire decoder answers, by the fields of the word. -/
theorem decodeWireWith_fields (dwl : Byte) (k : BitVec 4) (c : BitVec 2) (d : BitVec 10) :
    decodeWireWith dwl (k ++ c ++ d) =
      if DiswlRow dwl (k ++ c ++ d) then .ok (.diswl (AddressOperand.ofCode k) none)
      else if c = 0b00#2 then .ok (.write (AddressOperand.ofCode k) (some (d.setWidth 16)))
      else if c = 0b01#2 ∧ d = 0#10 then .ok (.incr (AddressOperand.ofCode k) none)
      else if c = 0b10#2 ∧ d = 0#10 then .ok (.decr (AddressOperand.ofCode k) none)
      else if c = 0b11#2 ∧ d = 0#10 then .ok (.read (AddressOperand.ofCode k) none)
      else .error .notAFrame := by
  have hincr : (k ++ c ++ d) &&& 0x0FFF#16 = 0x0400#16 ↔ c = 0b01#2 ∧ d = 0#10 := datalessRow_iff k c d 0b01#2
  have hdecr : (k ++ c ++ d) &&& 0x0FFF#16 = 0x0800#16 ↔ c = 0b10#2 ∧ d = 0#10 := datalessRow_iff k c d 0b10#2
  have hread : (k ++ c ++ d) &&& 0x0FFF#16 = 0x0C00#16 ↔ c = 0b11#2 ∧ d = 0#10 := datalessRow_iff k c d 0b11#2
  simp only [decodeWireWith, fields_code, fields_data, writeRow_iff, hincr, hdecr, hread]

/-- R68: a word that is of row DISWL, or has field C 00, or ten zero bits below field C, is decoded. -/
theorem decodeWireWith_isOk {dwl : Byte} {k : BitVec 4} {c : BitVec 2} {d : BitVec 10}
    (h : DiswlRow dwl (k ++ c ++ d) ∨ c = 0b00#2 ∨ d = 0#10) : ∃ i, decodeWireWith dwl (k ++ c ++ d) = .ok i := by
  have every_code : ∀ c : BitVec 2, c = 0b00#2 ∨ c = 0b01#2 ∨ c = 0b10#2 ∨ c = 0b11#2 := by decide
  rw [decodeWireWith_fields]
  split_ifs with hrow hwrite hincr hdecr hread
  case neg =>
    obtain rfl : d = 0#10 := (h.resolve_left hrow).resolve_left hwrite
    rcases every_code c with hc | hc | hc | hc
    · exact absurd hc hwrite
    · exact absurd ⟨hc, rfl⟩ hincr
    · exact absurd ⟨hc, rfl⟩ hdecr
    · exact absurd ⟨hc, rfl⟩ hread
  all_goals exact ⟨_, rfl⟩

/-- The data of a Write as the decoder reads it is the field it was read from. -/
theorem data10_setWidth (d : BitVec 10) : data10 (d.setWidth 16) = d := by
  rw [data10, ← BitVec.setWidth_eq_extractLsb' (by omega)]
  exact BitVec.setWidth_setWidth_of_le d (by omega)

/-- Settles O19: each row that the decoder tries accepts a word only if the row's instruction at the code in the word has
that word. -/
theorem decodedWireWordEncodesBack : Obligations.DecodedWireWordEncodesBack := by
  intro dwl w i h
  obtain ⟨k, c, d, rfl⟩ := exists_fields w
  have hcode := wireCode_ofCode k
  rw [decodeWireWith_fields] at h
  split_ifs at h with hrow hwrite hincr hdecr hread <;> obtain rfl := Except.ok.inj h <;>
    refine ⟨?_, wf_of_address_ofCode rfl rfl⟩
  · have hword := hrow.word_eq
    rw [fields_code] at hword
    rw [encodeWireWith, hcode, hword]
  · have hdata : (d.setWidth 16).extractLsb' 0 10 = d := data10_setWidth d
    rw [encodeWireWith, hcode, Option.getD_some, hdata, hwrite]
  · obtain ⟨rfl, rfl⟩ := hincr
    rw [encodeWireWith, hcode]
  · obtain ⟨rfl, rfl⟩ := hdecr
    rw [encodeWireWith, hcode]
  · obtain ⟨rfl, rfl⟩ := hread
    rw [encodeWireWith, hcode]

/-- Every instruction's wire word decodes, at every `DWL_POS`. -/
theorem decodeWireWith_encodeWireWith_isOk (dwl : Byte) (i : Instr) :
    ∃ j, decodeWireWith dwl (encodeWireWith dwl i) = .ok j := by
  cases i with
  | write a d => exact decodeWireWith_isOk (.inr (.inl rfl))
  | incr a d | decr a d | read a d | enwl a d => exact decodeWireWith_isOk (.inr (.inr rfl))
  | diswl a d =>
    have hrow := diswlRow_word dwl a.wireCode
    obtain ⟨k, c, x, hfields⟩ := exists_fields (((a.wireCode ++ 0#4) ||| dwl) ++ 0x00#8)
    rw [encodeWireWith, hfields]
    exact decodeWireWith_isOk (.inl (hfields ▸ hrow))

/-! ## The reading at the spec's `DWL_POS` -/

/-- Row DISWL at 0x40 (log 17): bit 2 of the code set, everything below the code 0. -/
theorem diswlRow_dwlPos (k : BitVec 4) (c : BitVec 2) (d : BitVec 10) :
    DiswlRow Config.dwlPos (k ++ c ++ d) ↔ k.getLsbD 2 = true ∧ c = 0b00#2 ∧ d = 0#10 := by
  have code_bit : ∀ k : BitVec 4, k &&& 0x4#4 = 0x4#4 ↔ k.getLsbD 2 = true := by decide
  have hmask : (Config.dwlPos ||| 0x0F#8) ++ 0xFF#8 = 0x4#4 ++ BitVec.allOnes 2 ++ BitVec.allOnes 10 := by decide
  have hmatch : Config.dwlPos ++ 0x00#8 = 0x4#4 ++ 0#2 ++ 0#10 := by decide
  rw [DiswlRow, hmask, hmatch, BitVec.and_append, BitVec.and_append, append_eq_append_iff, append_eq_append_iff,
    code_bit, BitVec.and_allOnes, BitVec.and_allOnes, and_assoc]

theorem not_diswlRow_of_code {k : BitVec 4} {c : BitVec 2} {d : BitVec 10} (hc : c ≠ 0b00#2) :
    ¬ DiswlRow Config.dwlPos (k ++ c ++ d) := by
  rw [diswlRow_dwlPos]
  exact fun ⟨_, h, _⟩ => hc h

/-- The DISWL word at 0x40 by fields: bit 2 of the code is set. -/
theorem diswlWord_dwlPos : ∀ k : BitVec 4,
    ((k ++ 0#4) ||| Config.dwlPos) ++ 0x00#8 = (k ||| 0b0100#4) ++ 0b00#2 ++ 0#10 := by decide

/-- R66: the data of a Write without its bits 15:10 is `d10`. -/
theorem setWidth_data10 (v : Half) : (data10 v).setWidth 16 = v &&& 0x03FF#16 := by
  obtain ⟨k, c, d, rfl⟩ := exists_fields v
  rw [fields_data, data10, BitVec.extractLsb'_append_eq_right]

theorem data10_eq_zero_iff (v : Half) : data10 v = 0#10 ↔ v &&& 0x03FF#16 = 0 := by
  rw [← setWidth_data10]
  exact ⟨fun h => h ▸ rfl, fun h => by rw [← data10_setWidth (data10 v), h]; rfl⟩

/-- Log 14: at the spec's `DWL_POS` the word of an instruction reads as the instruction chosen for its R69 class. -/
theorem decodeWire_encodeWire (i : Instr) : decodeWire (encodeWire i) = .ok i.wireReading := by
  cases i with
  | write a d =>
    have hword : encodeWire (.write a d) = a.wireCode ++ 0b00#2 ++ data10 (d.getD 0) := rfl
    rw [decodeWire, hword, decodeWireWith_fields, Instr.wireReading]
    simp only [diswlRow_dwlPos, data10_eq_zero_iff, setWidth_data10, Instr.address, true_and, if_true, Bool.and_eq_true,
      beq_iff_eq]
    split_ifs <;> rfl
  | incr a d | decr a d | read a d | enwl a d =>
    rw [decodeWire, encodeWire, encodeWireWith, decodeWireWith_fields, if_neg (not_diswlRow_of_code (by decide))]
    rfl
  | diswl a d =>
    have hword : encodeWire (.diswl a d) = (a.wireCode ||| 0b0100#4) ++ 0b00#2 ++ 0#10 := diswlWord_dwlPos a.wireCode
    have hrow : DiswlRow Config.dwlPos ((a.wireCode ||| 0b0100#4) ++ 0b00#2 ++ 0#10) :=
      hword ▸ diswlRow_word Config.dwlPos a.wireCode
    rw [decodeWire, hword, decodeWireWith_fields, if_pos hrow]
    rfl

/-- The two bytes on the transport are decoded as the wire word they make up (R43, R65). -/
theorem decode_encode (i : Instr) (rest : List Byte) : decode (encode i ++ rest) = .ok (i.wireReading, rest) := by
  have hbytes : (encodeWire i).extractLsb' 8 8 ++ (encodeWire i).extractLsb' 0 8 = encodeWire i :=
    BitVec.extractLsb'_append_extractLsb' (w := 8) (len := 8)
  rw [encode, List.cons_append, List.cons_append, List.nil_append, decode, hbytes, decodeWire_encodeWire]

/-- Settles O18: an instruction's word decodes, at 0x40 to the chosen reading; that the answer has the word and is
well-formed is true of whatever the decoder answers. -/
theorem wireDecodesToTheChosenReading : Obligations.WireDecodesToTheChosenReading := by
  refine ⟨fun i rest _ => ⟨decode_encode i rest, ?_⟩, fun dwl i _ => ?_⟩
  · exact decodedWireWordEncodesBack Config.dwlPos _ _ (decodeWire_encodeWire i)
  · obtain ⟨j, hj⟩ := decodeWireWith_encodeWireWith_isOk dwl i
    exact ⟨j, hj, decodedWireWordEncodesBack dwl _ _ hj⟩

end Sys2Proof.Proofs
end

section
/-! PROOFS. Which instructions share a wire word (30_encoding.md R69): the word of a legal instruction is three fields, so
two words are one exactly when the fields are, and each field says by itself what it leaves open. -/

namespace Sys2Proof.Proofs

open Sys2Proof.Machine

/-! ## The fields of an instruction's word -/

/-- Field A of the wire word at the spec's `DWL_POS`: the register code; DisableWiperLock sets bit 2 of it (R69, log 17). -/
def codeField (c : Command) (k : BitVec 4) : BitVec 4 :=
  if c = .disableWiperLock then k ||| 0x4 else k

/-- Field C of the wire word (R68). -/
def commandField : Command → BitVec 2
  | .write => 0b00
  | .increment => 0b01
  | .decrement => 0b10
  | .read => 0b11
  | .enableWiperLock => 0b01
  | .disableWiperLock => 0b00

/-- R70: a legal instruction of a command without data has none. -/
theorem data_eq_none_of_wf {i : Instr} (h : i.wf = true) (hc : i.command ≠ .write) : i.data = none := by
  rw [Instr.wf, Bool.and_eq_true, Command.dataLegal, decide_eq_false hc] at h
  obtain ⟨-, hdata⟩ := h
  simpa using hdata

theorem data10_eq_zero_of_wf {i : Instr} (h : i.wf = true) (hc : i.command ≠ .write) :
    data10 (i.data.getD 0) = 0 := by
  rw [data_eq_none_of_wf h hc]
  rfl

/-- R68: the wire word of a legal instruction is its three fields. -/
theorem encodeWire_fields {i : Instr} (h : i.wf = true) :
    encodeWire i = codeField i.command i.address.wireCode ++ commandField i.command ++ data10 (i.data.getD 0) := by
  cases i with
  | write a d => rfl
  | incr a d | decr a d | read a d | enwl a d =>
    rw [data10_eq_zero_of_wf h nofun]
    rfl
  | diswl a d =>
    rw [data10_eq_zero_of_wf h nofun]
    exact diswlWord_dwlPos a.wireCode

/-! ## What each field leaves open -/

theorem codeField_of_ne {c : Command} (h : c ≠ .disableWiperLock) (k : BitVec 4) : codeField c k = k :=
  if_neg h

theorem codeField_disableWiperLock (k : BitVec 4) : codeField .disableWiperLock k = k ||| 0x4 :=
  rfl

/-- R69 item 3: bit 2 of the code is lost in DISWL, and only that. -/
theorem or_four_eq_iff : ∀ k l : BitVec 4, k ||| 0x4 = l ||| 0x4 ↔ k = l ∨ k = l ^^^ 0x4 := by decide

/-- R69 items 1 and 2: field C does not tell Increment from EnableWiperLock nor Write from DisableWiperLock. -/
theorem commandField_eq_iff (c c' : Command) :
    commandField c = commandField c' ↔ c = c' ∨
      (c = .increment ∧ c' = .enableWiperLock) ∨ (c = .enableWiperLock ∧ c' = .increment) ∨
      (c = .disableWiperLock ∧ c' = .write) ∨ (c = .write ∧ c' = .disableWiperLock) := by
  cases c <;> cases c' <;> decide

/-- Settles O17: the words are one exactly when field C, field A and `d10` are; field C gives the pairs of commands, and for
each pair field A says how the codes are related. -/
theorem wireWordsCoincideOnlyAsListed : Obligations.WireWordsCoincideOnlyAsListed := by
  intro i j hi hj
  rw [encodeWire_fields hi, encodeWire_fields hj, append_eq_append_iff, append_eq_append_iff, commandField_eq_iff]
  have hi0 := data10_eq_zero_of_wf hi
  have hj0 := data10_eq_zero_of_wf hj
  constructor
  · rintro ⟨⟨hcode, hcommand⟩, hdata⟩
    rcases hcommand with h | ⟨hc, hc'⟩ | ⟨hc, hc'⟩ | ⟨hc, hc'⟩ | ⟨hc, hc'⟩
    · by_cases hdis : j.command = .disableWiperLock
      · rw [h, hdis, codeField_disableWiperLock, codeField_disableWiperLock, or_four_eq_iff] at hcode
        rcases hcode with hcode | hcode
        · exact .inl ⟨h, hcode, hdata⟩
        · exact .inr (.inr (.inr (.inl ⟨h.trans hdis, hdis, hcode⟩)))
      · rw [h, codeField_of_ne hdis, codeField_of_ne hdis] at hcode
        exact .inl ⟨h, hcode, hdata⟩
    · rw [hc, hc'] at hcode
      exact .inr (.inl ⟨hc, hc', hcode⟩)
    · rw [hc, hc'] at hcode
      exact .inr (.inr (.inl ⟨hc, hc', hcode⟩))
    · rw [hc, hc'] at hcode
      exact .inr (.inr (.inr (.inr (.inl ⟨hc, hc', hcode.symm, hdata.symm.trans (hi0 (hc ▸ nofun))⟩))))
    · rw [hc, hc'] at hcode
      exact .inr (.inr (.inr (.inr (.inr ⟨hc, hc', hcode, hdata.trans (hj0 (hc' ▸ nofun))⟩))))
  · rintro (⟨h, hcode, hdata⟩ | ⟨hc, hc', hcode⟩ | ⟨hc, hc', hcode⟩ | ⟨hc, hc', hcode⟩ | ⟨hc, hc', hcode, hdata⟩ |
      ⟨hc, hc', hcode, hdata⟩)
    · exact ⟨⟨by rw [h, hcode], .inl h⟩, hdata⟩
    · exact ⟨⟨by rw [hc, hc', hcode]; rfl, by simp [hc, hc']⟩, (hi0 (hc ▸ nofun)).trans (hj0 (hc' ▸ nofun)).symm⟩
    · exact ⟨⟨by rw [hc, hc', hcode]; rfl, by simp [hc, hc']⟩, (hi0 (hc ▸ nofun)).trans (hj0 (hc' ▸ nofun)).symm⟩
    · have hlost := (or_four_eq_iff _ _).mpr (.inr hcode)
      exact ⟨⟨by rw [hc, hc']; exact hlost, by simp [hc, hc']⟩,
        (hi0 (hc ▸ nofun)).trans (hj0 (hc' ▸ nofun)).symm⟩
    · exact ⟨⟨by rw [hc, hc', hcode]; rfl, by simp [hc, hc']⟩, (hi0 (hc ▸ nofun)).trans hdata.symm⟩
    · exact ⟨⟨by rw [hc, hc', hcode]; rfl, by simp [hc, hc']⟩, hdata.trans (hj0 (hc' ▸ nofun)).symm⟩

/-- Settles O20: each word is taken through the decoder. -/
theorem knownWordsDecode : Obligations.KnownWordsDecode := by
  refine ⟨?_, ?_, ?_, ?_, ?_, ?_, ?_⟩ <;> decide

end Sys2Proof.Proofs
end

section
/-! PROOFS. A slot of 10 or more that a program writes (30_encoding.md R73, R74, 40_address.md R81, R93): the slot port
presents it as a slot of 10 or more, so the address fails in CTRL and in ENC, however large it is. -/

namespace Sys2Proof.Proofs

open Sys2Proof.Machine Sys2Proof.Safety

/-! ## The ports of an instruction -/

/-- R93: the block's slot port presents an address out of range as one out of range (log 31). -/
theorem decodeAddress_outOfRange {a : AddressOperand} (h : a.inRange = false) :
    (decodeAddress a.kind (a.slotPort Config.slotW)).inRange = false := by
  cases a with
  | dataEEPROM slot =>
    have hslot : ¬ slot < 10 := of_decide_eq_false h
    have hport : (BitVec.ofNat Config.slotW (min slot (2 ^ Config.slotW - 1))).toNat = min slot 15 := by
      rw [BitVec.toNat_ofNat]
      exact Nat.mod_eq_of_lt (Nat.lt_of_le_of_lt (Nat.min_le_right _ _) (by decide))
    exact decide_eq_false (by rw [AddressOperand.slotPort, hport, Config.slotCount]; omega)
  | volatileWiper0 | volatileWiper1 | nonVolatileWiper0 | nonVolatileWiper1 | volatileTCON | status | wiperLock =>
    exact absurd h (by decide)

/-- R113: the selector of a Command names it. -/
theorem decodeCommand_selector (c : Command) : decodeCommand c.selector = .ok c := by
  cases c <;> rfl

theorem ofCommand_address (c : Command) (a : AddressOperand) (d : Option Half) :
    (Instr.ofCommand c a d).address = a := by
  cases c <;> rfl

/-- The request of an instruction whose slot is out of range presents an instruction whose slot is out of range. -/
theorem decodeRequest_outOfRange {i : Instr} (h : i.address.inRange = false) :
    ∃ j, decodeRequest (encodeRequest i : RequestPorts Config.slotW) = .ok j ∧ j.address.inRange = false := by
  simp only [decodeRequest, encodeRequest, decodeCommand_selector]
  exact ⟨_, rfl, by rw [ofCommand_address]; exact decodeAddress_outOfRange h⟩

/-! ## CTRL -/

/-- R139, R162: an instruction in Idle whose address cannot be constructed faults, whatever its data. -/
theorem exec_outOfRange {i : Instr} {s : State} (hp : s.phase = .idle) (h : i.address.inRange = false) :
    exec i s = .next (s.takeFault .outOfRangeAddress) := by
  rw [exec_eq_sendCommand, sendCommand, sendCommandWith, whenIdle_idle hp, resolveAddress_outOfRange h]
  rfl

/-- R148: a step that samples the request of an instruction runs the instruction that the request's ports present. -/
theorem step_presented {s : State} {i j : Instr} {rest : List Input}
    (hj : decodeRequest (encodeRequest i : RequestPorts Config.slotW) = .ok j)
    (hin : s.inputs = .request (encodeRequest i) :: rest) : step s = exec j (s.sampled rest) := by
  have hop : (encodeRequest i : RequestPorts Config.slotW).op = 0 := rfl
  rw [step_request hin, runRequest, runRequestBy, if_pos hop, hj]

/-- R169: a fault taken in the step that samples the request, before any event. -/
theorem takeFault_sampled_faults (k : CtrlError) (rest : List Input) (s : State) :
    Faults k [] rest s ((s.sampled rest).takeFault k) := by
  simp [Faults, SameConfiguration]

/-- R169: no fault but TransportFailure touches chip-select. -/
theorem takeFault_sampled_cs {k : CtrlError} (hk : k ≠ .transportFailure) (rest : List Input) (s : State) :
    ((s.sampled rest).takeFault k).cs = s.cs := by
  rw [State.takeFault_cs, State.csAfterFault, if_neg hk, State.sampled_cs]

/-! ## ENC -/

/-- R114: ENC's status for an instruction whose slot is out of range. -/
theorem encPorts_outOfRange {i : Instr} (h : i.address.inRange = false) : (encPorts (encRequest i)).status = 2 := by
  have hanswer : encAnswerWith Config.dwlPos (encRequest i) = .error 2 := by
    simp only [encAnswerWith, encRequest, decodeCommand_selector,
      resolveAddress_outOfRange (decodeAddress_outOfRange h), encStatus]
  simp only [encPorts, encPortsWith, hanswer]

/-- Settles O50: the ports present an address out of range, which CTRL faults on and ENC answers with status 2. -/
theorem writtenSlotsOfTenOrMoreFail : Obligations.WrittenSlotsOfTenOrMoreFail := by
  intro i s rest hrange
  constructor
  · intro hp hin
    obtain ⟨j, hj, hjrange⟩ := decodeRequest_outOfRange hrange
    have hstep := (step_presented hj hin).trans (exec_outOfRange (s := s.sampled (acknowledged ++ rest)) hp hjrange)
    exact ⟨_, hstep, takeFault_sampled_faults _ _ s, takeFault_sampled_cs (by decide) _ s⟩
  · intro hin
    exact ⟨_, step_encDrive hin, encPorts_outOfRange hrange, rfl, rfl⟩

end Sys2Proof.Proofs
end

section
/-! PROOFS. Addresses and the ports that select them (40_address.md): the validated constructor (R81), the register codes
(R90, R91), the selectors (R92, R113) with the slot port that only `addr_kind` 6 reads (R93), and the request ports of an
instruction, which name it exactly (R148). -/

namespace Sys2Proof.Proofs

open Sys2Proof.Machine

/-! ## The DataEEPROM constructor -/

theorem makeDataEEPROM_of_lt {slot : Nat} (h : slot < 10) : makeDataEEPROM slot = .ok (.dataEEPROM ⟨slot, h⟩) :=
  dif_pos h

theorem makeDataEEPROM_of_le {slot : Nat} (h : 10 ≤ slot) : makeDataEEPROM slot = .error .outOfRangeAddress :=
  dif_neg (Nat.not_lt.mpr h)

/-- Settles O3: the two sides of the constructor's check. -/
theorem eepromSlotIsValidated : Obligations.EepromSlotIsValidated := fun _ =>
  ⟨makeDataEEPROM_of_lt, makeDataEEPROM_of_le⟩

/-! ## Register codes -/

/-- R88: the code of slot 9 is 0xE, so no slot's code wraps around its four bits. -/
theorem addrCode_dataEEPROM_toNat (slot : Fin 10) : (addrCode (.dataEEPROM slot)).toNat = 0x5 + slot.val := by
  have hnowrap : 0x5 + slot.val < 2 ^ 4 := by omega
  rw [addrCode_eq_wireCode (a := .dataEEPROM slot) (makeDataEEPROM_of_lt slot.isLt), AddressOperand.wireCode,
    BitVec.toNat_ofNat, Nat.mod_eq_of_lt hnowrap]

theorem addrPos_toNat (m : MemoryAddress) : (addrPos m).toNat = (addrCode m).toNat * 16 := by
  rw [addrPos_eq_append, toNat_append_eq_add]
  rfl

/-- Settles O1: the codes are read off; the position is the code as the high field of the byte. -/
theorem addressCodesArePositioned : Obligations.AddressCodesArePositioned :=
  ⟨rfl, rfl, rfl, rfl, rfl, rfl, addrCode_dataEEPROM_toNat, rfl, addrPos_toNat⟩

/-- R62: `compose` reads an address through its code alone. -/
theorem composeWith_congr_addrCode {m n : MemoryAddress} (h : addrCode m = addrCode n) (dwl : Byte) (c : Command)
    (d : Option Half) : composeWith dwl m c d = composeWith dwl n c d := by
  simp only [composeWith, addrPos, h]

theorem ofCode_addrCode_dataEEPROM : ∀ slot : Fin 10,
    AddressOperand.ofCode (addrCode (.dataEEPROM slot)) = if slot = 0 then .status else .dataEEPROM slot := by
  decide

/-- R91: the address is recovered from its code, but for DataEEPROM(0), whose code reads as StatusRegister. -/
theorem resolveAddress_ofCode_addrCode (m : MemoryAddress) :
    resolveAddress (AddressOperand.ofCode (addrCode m)) = .ok (if m = .dataEEPROM 0 then .status else m) := by
  cases m with
  | dataEEPROM slot =>
    rw [ofCode_addrCode_dataEEPROM]
    by_cases hslot : slot = 0
    · simp [hslot, resolveAddress]
    · simp [hslot, resolveAddress, makeDataEEPROM_of_lt slot.isLt]
  | volatileWiper0 | volatileWiper1 | nonVolatileWiper0 | nonVolatileWiper1 | volatileTCON | status | wiperLock => rfl

/-- Settles O4: `compose` reads only the code, and two addresses of one code are recovered from it as the same address,
DataEEPROM(0) as StatusRegister. -/
theorem onlyStatusAndSlotZeroShareACode : Obligations.OnlyStatusAndSlotZeroShareACode := by
  refine ⟨composeWith_congr_addrCode rfl Config.dwlPos, fun a b hcode => ?_⟩
  have hread : (if a = .dataEEPROM 0 then MemoryAddress.status else a) = if b = .dataEEPROM 0 then .status else b := by
    rw [← Except.ok.injEq (ε := EncError), ← resolveAddress_ofCode_addrCode, hcode, resolveAddress_ofCode_addrCode]
  split at hread <;> split at hread
  next ha hb => exact .inl (ha.trans hb.symm)
  next ha _ => exact .inr (.inr ⟨ha, hread.symm⟩)
  next _ hb => exact .inr (.inl ⟨hread, hb⟩)
  next => exact .inl hread

/-! ## Selectors -/

/-- R93: no kind but 6 reads the slot port. -/
theorem decodeAddress_slot_unread {slotW : Nat} {kind : BitVec 3} (h : kind ≠ 6) (x y : BitVec slotW) :
    decodeAddress kind x = decodeAddress kind y := by
  unfold decodeAddress
  split
  case h_7 hsix => exact absurd (BitVec.eq_of_toNat_eq hsix) h
  all_goals rfl

theorem decodeAddress_six {slotW : Nat} (slot : BitVec slotW) : decodeAddress 6 slot = .dataEEPROM slot.toNat :=
  rfl

/-- R114, R163: a selector that names no Command is ENC's first error. -/
theorem encAnswerWith_illegalSelector {slotW : Nat} {p : EncPorts slotW} {e : DecodeError}
    (h : decodeCommand p.cmdSel = .error e) (dwl : Byte) : encAnswerWith dwl p = .error 3 := by
  simp only [encAnswerWith, h]

theorem encPortsWith_status_of_error {slotW : Nat} {dwl : Byte} {p : EncPorts slotW} {status : BitVec 2}
    (h : encAnswerWith dwl p = .error status) : (encPortsWith dwl p).status = status := by
  simp only [encPortsWith, h]

/-- Settles O11: each selector is read off; at 6 and 7 no Command is named, and ENC answers IllegalSelector. -/
theorem selectorsNameAddressesAndCommands : Obligations.SelectorsNameAddressesAndCommands := by
  refine ⟨fun _ _ => ⟨rfl, rfl, rfl, rfl, rfl, rfl, rfl, rfl⟩, rfl, rfl, rfl, rfl, rfl, rfl, rfl, rfl,
    fun slotW p hsel => ?_⟩
  have hnone : decodeCommand p.cmdSel = .error .illegalSelector := by
    rcases hsel with hsel | hsel <;> rw [hsel] <;> rfl
  exact encPortsWith_status_of_error (encAnswerWith_illegalSelector hnone Config.dwlPos)

/-! ## The slot port -/

section

variable {slotW : Nat}

theorem encAnswerWith_slot_unread {p : EncPorts slotW} (h : p.addrKind ≠ 6) (dwl : Byte) (x : BitVec slotW) :
    encAnswerWith dwl { p with slot := x } = encAnswerWith dwl p := by
  simp only [encAnswerWith, decodeAddress_slot_unread h x p.slot]

theorem slotRead_slot_unread {p : EncPorts slotW} (h : p.addrKind ≠ 6) (x : BitVec slotW) :
    slotRead { p with slot := x } = slotRead p := by
  simp only [slotRead, if_neg h]

/-- R93: ENC's outputs, defined or not, do not depend on a slot that is not read. -/
theorem encPorts_slot_unread {p : EncPorts slotW} (h : p.addrKind ≠ 6) (x : BitVec slotW) :
    encPorts { p with slot := x } = encPorts p := by
  simp only [encPorts, encPortsWith, encAnswerWith_slot_unread h, slotRead_slot_unread h]

theorem decodeRequest_slot_unread {r : RequestPorts slotW} (h : r.addrKind ≠ 6) (x : BitVec slotW) :
    decodeRequest { r with slot := x } = decodeRequest r := by
  simp only [decodeRequest, decodeAddress_slot_unread h x r.slot]

/-- R93: CTRL reads the slot of a request through its instruction alone. -/
theorem runRequest_slot_unread {r : RequestPorts slotW} (h : r.addrKind ≠ 6) (x : BitVec slotW) (s : State) :
    runRequest { r with slot := x } s = runRequest r s := by
  simp only [runRequest, runRequestBy, decodeRequest_slot_unread h]

end

/-- Settles O13: a slot that is not read reaches no output; one that is read goes through the validated constructor as the
number on the port, which on the block's four bits is every slot below 16. -/
theorem slotIsReadOnlyForDataEeprom : Obligations.SlotIsReadOnlyForDataEeprom := by
  refine ⟨fun _ _ x h => encPorts_slot_unread h x, fun _ _ x s h => runRequest_slot_unread h x s,
    fun _ _ => ⟨makeDataEEPROM_of_lt, makeDataEEPROM_of_le⟩, fun slot => ⟨fun h => ?_, makeDataEEPROM_of_le⟩⟩
  have hport : (BitVec.ofNat Config.slotW slot).toNat = slot := Nat.mod_eq_of_lt h
  rw [decodeAddress_six, hport]

/-! ## The request ports of an instruction -/

/-- R92, R93: the ports of an address name it, when the slot port holds its slot. -/
theorem decodeAddress_kind_slotPort {slotW : Nat} {a : AddressOperand} (h : a.fits slotW = true) :
    decodeAddress a.kind (a.slotPort slotW) = a := by
  cases a with
  | dataEEPROM slot =>
    have hslot : slot < 2 ^ slotW := of_decide_eq_true h
    have hport : (BitVec.ofNat slotW (min slot (2 ^ slotW - 1))).toNat = slot := by
      rw [Nat.min_eq_left (Nat.le_sub_one_of_lt hslot), BitVec.toNat_ofNat, Nat.mod_eq_of_lt hslot]
    exact congrArg AddressOperand.dataEEPROM hport
  | volatileWiper0 | volatileWiper1 | nonVolatileWiper0 | nonVolatileWiper1 | volatileTCON | status | wiperLock => rfl

/-- R148: the data ports of an optional value, whatever `data` holds when there is none, give the value back. -/
theorem decodeData_isSome_getD (d : Option Half) (v : Half) : decodeData d.isSome (d.getD v) = d := by
  cases d <;> rfl

/-- An instruction is its Command with its operands. -/
theorem ofCommand_command (i : Instr) : Instr.ofCommand i.command i.address i.data = i := by
  cases i <;> rfl

/-- Settles O15: selector, address and data ports each give back what they encode, and the instruction is these three. -/
theorem requestDecodesBack : Obligations.RequestDecodesBack := by
  intro slotW i hfits
  simp only [decodeRequest, encodeRequest, decodeCommand_selector, decodeAddress_kind_slotPort hfits,
    decodeData_isSome_getD, ofCommand_command]

end Sys2Proof.Proofs
end

section
/-! PROOFS. Every frame of `compose` at the spec's `DWL_POS`, and ENC's answer at its ports. A frame exists exactly for legal
data presence (41_compose.md R102); its command byte is three fields, address code, command code and data bits 9:8
(30_encoding.md R60 to R66, 41_compose.md R103 to R109), which are read back (R111) or counted; ENC's ports say what
`compose` says once the selectors name a Command and an address (R114). -/

namespace Sys2Proof.Proofs

open Sys2Proof.Machine

/-! ## Positioned commands -/

/-- Settles O2: the positioned codes are read off the table of R109. -/
theorem commandCodesArePositioned : Obligations.CommandCodesArePositioned :=
  ⟨rfl, rfl, rfl, rfl, rfl, rfl⟩

/-- R62, R109: but for DisableWiperLock, the command code stands in bits 3:2, and nothing else. -/
theorem cmdPosWith_eq_commandField {c : Command} (h : c ≠ .disableWiperLock) (dwl : Byte) :
    cmdPosWith dwl c = 0#4 ++ commandField c ++ 0#2 := by
  cases c with
  | disableWiperLock => exact absurd rfl h
  | write | increment | decrement | read | enableWiperLock => rfl

/-- R63, R108: the spec's `DWL_POS` stands on bit 2 of the address code. -/
theorem addrPos_or_dwlPos (m : MemoryAddress) : addrPos m ||| Config.dwlPos = (addrCode m ||| 0x4) ++ 0#2 ++ 0#2 := by
  have or_bit_six : ∀ k : BitVec 4, (k ++ 0#4) ||| 0x40#8 = (k ||| 0x4) ++ 0#2 ++ 0#2 := by decide
  rw [addrPos_eq_append]
  exact or_bit_six (addrCode m)

/-! ## When a frame exists -/

/-- R102: legal data presence is a Write with data, or another command without. -/
theorem composeWith_legal (dwl : Byte) (m : MemoryAddress) {c : Command} {d : Option Half}
    (h : c = .write ↔ d ≠ none) : ∃ f, composeWith dwl m c d = .ok f := by
  cases d with
  | some v =>
    obtain rfl : c = .write := h.mpr nofun
    exact ⟨_, composeWith_write dwl m v⟩
  | none => exact ⟨_, composeWith_dataless dwl m fun hc => h.mp hc rfl⟩

/-- R102, R161: illegal data presence is a Write without data, or another command with. -/
theorem composeWith_illegal (dwl : Byte) (m : MemoryAddress) {c : Command} {d : Option Half}
    (h : ¬(c = .write ↔ d ≠ none)) : composeWith dwl m c d = .error .invalidCombination := by
  by_cases hc : c = .write
  · have hd : d = none := by simpa [hc] using h
    simp [composeWith, hc, hd]
  · have hd : d ≠ none := by simpa [hc] using h
    simp [composeWith, hc, hd]

/-- Settles O5: legal data presence composes, and illegal data presence is the error, so no frame. -/
theorem composeSucceedsExactlyWhenLegal : Obligations.ComposeSucceedsExactlyWhenLegal := by
  intro m c d
  refine ⟨⟨fun ⟨f, hf⟩ => ?_, composeWith_legal Config.dwlPos m⟩, composeWith_illegal Config.dwlPos m⟩
  by_contra hillegal
  exact nomatch hf.symm.trans (composeWith_illegal Config.dwlPos m hillegal)

/-! ## The command byte as fields -/

/-- R104 to R108: the frame of a command without data. -/
theorem compose_dataless (m : MemoryAddress) {c : Command} (h : c ≠ .write) :
    compose m c none = .ok ⟨codeField c (addrCode m) ++ commandField c ++ 0#2, none⟩ := by
  rw [compose, composeWith_dataless Config.dwlPos m h]
  by_cases hdis : c = .disableWiperLock
  · subst hdis
    rw [cmdPosWith, addrPos_or_dwlPos]
    rfl
  · rw [cmdPosWith_eq_commandField hdis, addrPos_or_code, codeField_of_ne hdis]

/-- R60 to R66: the command byte of any frame. -/
theorem compose_cmdByte {m : MemoryAddress} {c : Command} {d : Option Half} {f : Frame} (h : compose m c d = .ok f) :
    f.cmdByte = codeField c (addrCode m) ++ commandField c ++ (data10 (d.getD 0)).extractLsb' 8 2 := by
  rcases composeWith_ok h with ⟨v, rfl, rfl, rfl⟩ | ⟨hc, rfl, -⟩
  · exact addrPos_or_dataHigh m v
  · obtain rfl := Except.ok.inj ((compose_dataless m hc).symm.trans h)
    rfl

/-- The three fields of a command byte, counted. -/
theorem cmdByte_toNat (k : BitVec 4) (c x : BitVec 2) :
    (k ++ c ++ x).toNat = k.toNat * 16 + c.toNat * 4 + x.toNat := by
  rw [toNat_append_eq_add, toNat_append_eq_add]
  omega

/-- Field C of a command byte stands in bits 3:2. -/
theorem cmdByte_middle_field (k : BitVec 4) (c x : BitVec 2) : (k ++ c ++ x).extractLsb' 2 2 = c := by
  rw [BitVec.extractLsb'_append_eq_of_le (by omega)]
  exact BitVec.extractLsb'_append_eq_right

/-- R66: data bits 9:8 as a number. -/
theorem data10_high_toNat (v : Half) : ((data10 v).extractLsb' 8 2).toNat = v.toNat / 256 % 4 := by
  simp only [data10, BitVec.extractLsb'_toNat]
  omega

/-- R104 to R107: the command byte of a command without data, but for DisableWiperLock, as a number. -/
theorem dataless_cmdByte_toNat (m : MemoryAddress) {c : Command} (h : c ≠ .disableWiperLock) :
    (codeField c (addrCode m) ++ commandField c ++ 0#2).toNat =
      (addrCode m).toNat * 16 + (commandField c).toNat * 4 := by
  rw [codeField_of_ne h]
  exact cmdByte_toNat _ _ 0#2

/-- Settles O7: each of the four commands composes to its fields, the last of them zero, and the fields are counted. -/
theorem datalessFramesHoldAddressAndCode : Obligations.DatalessFramesHoldAddressAndCode := by
  intro m c k hck
  have command_codes : ∀ p ∈ [(Command.increment, 1), (Command.decrement, 2), (Command.read, 3),
      (Command.enableWiperLock, 1)],
      p.1 ≠ .write ∧ p.1 ≠ .disableWiperLock ∧ (commandField p.1).toNat = p.2 := by decide
  obtain ⟨hwrite, hdis, hcode⟩ : c ≠ .write ∧ c ≠ .disableWiperLock ∧ (commandField c).toNat = k :=
    command_codes (c, k) hck
  exact ⟨_, compose_dataless m hwrite, hcode ▸ dataless_cmdByte_toNat m hdis⟩

/-- R108: the frame of DISWL at the spec's `DWL_POS`. -/
theorem compose_disableWiperLock (m : MemoryAddress) :
    compose m .disableWiperLock none = .ok ⟨(addrCode m ||| 0x4) ++ 0#2 ++ 0#2, none⟩ :=
  compose_dataless m nofun

/-- Settles O8: the high nibble of the frame is the code with bit 2 set, which loses that bit alone; the rest is zero. -/
theorem disableWiperLockSetsAddressBitTwo : Obligations.DisableWiperLockSetsAddressBitTwo := by
  refine ⟨composeWith_disableWiperLock, fun m => ⟨_, compose_disableWiperLock m, ?_, ?_⟩, fun a b hab => ?_⟩
  · exact extractLsb'_high_field _ 0#2 0#2
  · rw [BitVec.append_assoc]
    exact BitVec.extractLsb'_append_eq_right
  · have hlost : addrCode b ||| 0x4 = addrCode a ||| 0x4 := (or_four_eq_iff _ _).mpr (.inr hab)
    rw [compose_disableWiperLock, compose_disableWiperLock, hlost]

/-- Settles O10: a command byte is its three fields, and each is extracted from its place. -/
theorem commandByteReadsBack : Obligations.CommandByteReadsBack := by
  intro m c d f hdis hf
  rw [compose_cmdByte hf, codeField_of_ne hdis]
  refine ⟨extractLsb'_high_field _ _ _, ?_, ?_⟩
  · rw [cmdByte_middle_field, cmdPosWith_eq_commandField hdis, cmdByte_toNat]
    simp
  · rw [BitVec.extractLsb'_append_eq_right, data10_high_toNat]

/-! ## ENC at its ports -/

/-- R113: 6 and 7 name no Command. -/
theorem decodeCommand_illegal {sel : BitVec 3} (h : sel = 6 ∨ sel = 7) :
    decodeCommand sel = .error .illegalSelector := by
  rcases h with rfl | rfl <;> rfl

/-- R113: every other selector names one. -/
theorem decodeCommand_legal {sel : BitVec 3} (h6 : sel ≠ 6) (h7 : sel ≠ 7) : ∃ c, decodeCommand sel = .ok c := by
  have named : ∀ sel : BitVec 3, sel ≠ 6 → sel ≠ 7 → (decodeCommand sel).toOption.isSome = true := by decide
  cases hsel : decodeCommand sel with
  | ok c => exact ⟨c, rfl⟩
  | error e => simpa [hsel, Except.toOption] using named sel h6 h7

/-- R81, R93: the address that the ports select is out of range exactly at kind 6 and a slot of 10 or more. -/
theorem decodeAddress_inRange_eq_false_iff {slotW : Nat} (kind : BitVec 3) (slot : BitVec slotW) :
    (decodeAddress kind slot).inRange = false ↔ kind = 6 ∧ 10 ≤ slot.toNat := by
  by_cases hkind : kind = 6
  · subst hkind
    have hread : (decodeAddress 6 slot).inRange = decide (slot.toNat < 10) := rfl
    rw [hread, decide_eq_false_iff_not, Nat.not_lt]
    exact (and_iff_right rfl).symm
  · simp only [hkind, false_and, iff_false]
    unfold decodeAddress
    split
    case h_7 hsix => exact absurd (BitVec.eq_of_toNat_eq hsix) hkind
    all_goals decide

section

variable {slotW : Nat} {dwl : Byte} {p : EncPorts slotW} {c : Command}

/-- R114, R162: an address out of range is ENC's second error. -/
theorem encAnswerWith_outOfRange (hc : decodeCommand p.cmdSel = .ok c)
    (h : (decodeAddress p.addrKind p.slot).inRange = false) : encAnswerWith dwl p = .error 2 := by
  simp only [encAnswerWith, hc, resolveAddress_outOfRange h, encStatus]

variable {m : MemoryAddress}

/-- R114, R161: the last error of ENC is that of `compose`. -/
theorem encAnswerWith_of_compose_error {e : EncError} (hc : decodeCommand p.cmdSel = .ok c)
    (hm : resolveAddress (decodeAddress p.addrKind p.slot) = .ok m)
    (hf : composeWith dwl m c (decodeData p.dataPresent p.data) = .error e) :
    encAnswerWith dwl p = .error (encStatus e) := by
  simp only [encAnswerWith, hc, hm, hf]

/-- R114: without an error ENC answers the frame of `compose`. -/
theorem encAnswerWith_of_compose_ok {f : Frame} (hc : decodeCommand p.cmdSel = .ok c)
    (hm : resolveAddress (decodeAddress p.addrKind p.slot) = .ok m)
    (hf : composeWith dwl m c (decodeData p.dataPresent p.data) = .ok f) : encAnswerWith dwl p = .ok f := by
  simp only [encAnswerWith, hc, hm, hf]

end

/-- Settles O12: ENC's answer at each of its three checks, and the ports that show it. -/
theorem encPortsFollowCompose : Obligations.EncPortsFollowCompose := by
  intro slotW dwl p
  refine ⟨fun hsel => ?_, fun h6 h7 hkind hslot => ?_, fun h6 h7 hrange => ?_⟩
  · exact encPortsWith_status_of_error (encAnswerWith_illegalSelector (decodeCommand_illegal hsel) dwl)
  · obtain ⟨c, hc⟩ := decodeCommand_legal h6 h7
    have hout := (decodeAddress_inRange_eq_false_iff _ _).mpr ⟨hkind, hslot⟩
    exact encPortsWith_status_of_error (encAnswerWith_outOfRange hc hout)
  · obtain ⟨c, hc⟩ := decodeCommand_legal h6 h7
    have hin := Bool.eq_true_of_not_eq_false (mt (decodeAddress_inRange_eq_false_iff _ _).mp hrange)
    obtain ⟨m, hm⟩ := resolveAddress_inRange hin
    refine ⟨c, m, hc, hm, fun herror => ?_, fun b hframe => ?_, fun b x hframe => ?_⟩
    · exact encPortsWith_status_of_error (encAnswerWith_of_compose_error hc hm herror)
    · simp only [encPortsWith, encAnswerWith_of_compose_ok hc hm hframe, and_self]
    · simp only [encPortsWith, encAnswerWith_of_compose_ok hc hm hframe]

end Sys2Proof.Proofs
end

section
/-! PROOFS. The six instructions complete (42_controller.md R139 to R141): a legal instruction in Idle, with capabilities that
answer, appends the six events of the frame it composes and responds with its bytes. -/

namespace Sys2Proof.Proofs

open Sys2Proof.Machine Sys2Proof.Safety

theorem byte_eq_ofNat {b : Byte} {n : Nat} (h : b.toNat = n) : b = BitVec.ofNat 8 n := by
  rw [← h, BitVec.ofNat_toNat, BitVec.setWidth_eq]

/-- An instruction in Idle whose frame composes completes with the bytes of that frame, given as numbers. -/
theorem exec_completes {i : Instr} {s : State} {rest : List Input} {m : MemoryAddress} {b0 : Byte}
    {ob1 : Option Byte} {n : Nat} (hm : resolveAddress i.address = .ok m) (hp : s.phase = .idle)
    (hin : s.inputs = acknowledged ++ rest) (hf : compose m i.command i.data = .ok ⟨b0, ob1⟩) (hn : b0.toNat = n) :
    ∃ t, exec i s = .next t ∧ Completes (BitVec.ofNat 8 n) ob1 rest s t := by
  obtain rfl := byte_eq_ofNat hn
  rw [← execWith_dwlPos]
  exact execWith_completes hp hin hm hf

/-- Settles O23: the frame of a Write in arithmetic of its operands, completed. -/
theorem writeCompletes : Obligations.WriteCompletes := by
  intro a m v s rest hm hp hin
  obtain ⟨b0, b1, hf, hb0, hb1, -⟩ := writeFrameSplitsTheData m v
  obtain rfl := byte_eq_ofNat hb1
  exact exec_completes (i := .write a (some v)) hm hp hin hf hb0

/-- R104 to R107: an instruction without data of a command whose code lies in bits 3:2. -/
theorem dataless_completes {i : Instr} {s : State} {rest : List Input} {m : MemoryAddress}
    (hwrite : i.command ≠ .write) (hdis : i.command ≠ .disableWiperLock) (hd : i.data = none)
    (hm : resolveAddress i.address = .ok m) (hp : s.phase = .idle) (hin : s.inputs = acknowledged ++ rest) :
    ∃ t, exec i s = .next t ∧
      Completes (BitVec.ofNat 8 ((addrCode m).toNat * 16 + (commandField i.command).toNat * 4)) none rest s t :=
  exec_completes hm hp hin (hd ▸ compose_dataless m hwrite) (dataless_cmdByte_toNat m hdis)

/-- Settles O24: each of the four instructions is one without data, and its code in bits 3:2 is read off. -/
theorem datalessCommandsComplete : Obligations.DatalessCommandsComplete := fun a _ _ _ hm hp hin =>
  ⟨dataless_completes (i := .incr a none) nofun nofun rfl hm hp hin,
    dataless_completes (i := .decr a none) nofun nofun rfl hm hp hin,
    dataless_completes (i := .read a none) nofun nofun rfl hm hp hin,
    dataless_completes (i := .enwl a none) nofun nofun rfl hm hp hin⟩

/-- Settles O25: the frame of DISWL is the code with bit 2 set and zero fields below it, completed. -/
theorem disableWiperLockCompletes : Obligations.DisableWiperLockCompletes := by
  intro a m s rest hm hp hin
  have hbyte : ((addrCode m ||| 0x4) ++ 0#2 ++ 0#2).toNat = (addrCode m ||| 0x4).toNat * 16 := cmdByte_toNat _ _ _
  exact exec_completes (i := .diswl a none) hm hp hin (compose_disableWiperLock m) hbyte

end Sys2Proof.Proofs
end

section
/-! PROOFS. The rows of the phase table (42_controller.md R142), each as one equation of states: what making the request
of a phase does, what each answer does to the request it answers, and the two together, which absorb one input. -/

namespace Sys2Proof.Proofs

open Sys2Proof.Machine Sys2Proof.Safety

section

variable {s : State}

/-! ## Making the request of a phase -/

theorem issue_of_pending {q : CapRequest} (hq : s.pending = some q) : s.issue = s := by
  rcases issue_cases s with h | ⟨-, hn, -⟩ | ⟨-, hn, -⟩ | ⟨-, hn, -⟩
  · exact h
  all_goals exact absurd (hq.symm.trans hn) nofun

theorem issue_asserted (hp : s.phase = .asserted) (hq : s.pending = none) : s.issue = s.delayMs Config.settleMs := by
  simp only [State.issue, hp, hq]

theorem issue_byteSent1 (hp : s.phase = .byteSent1) (hq : s.pending = none) : s.issue = s.sendByte s.tx1 := by
  simp only [State.issue, hp, hq]

theorem issue_byteSent2 (hp : s.phase = .byteSent2) (hq : s.pending = none) : s.issue = s.delayMs Config.settleMs := by
  simp only [State.issue, hp, hq]

/-- A request is made once. -/
theorem issue_issue (s : State) : s.issue.issue = s.issue := by
  rcases issue_cases s with h | ⟨-, -, h⟩ | ⟨-, -, h⟩ | ⟨-, -, h⟩ <;> rw [h]
  · exact h
  all_goals exact issue_of_pending rfl

/-! ## The answer to a request -/

theorem takeAnswer_dlyDone_asserted {n : Half} (hp : s.phase = .asserted) (hq : s.pending = some (.delay n)) :
    s.takeAnswer .dlyDone = s.sendByte s.tx0 := by
  simp only [State.takeAnswer, hp, hq]

theorem takeAnswer_txAck_asserted {b : Byte} (hp : s.phase = .asserted) (hq : s.pending = some (.send b)) :
    s.takeAnswer .txAck = s.byteSent .byteSent1 := by
  simp only [State.takeAnswer, hp, hq]

theorem takeAnswer_txAck_byteSent1 {b : Byte} (hp : s.phase = .byteSent1) (hq : s.pending = some (.send b)) :
    s.takeAnswer .txAck = s.byteSent .byteSent2 := by
  simp only [State.takeAnswer, hp, hq]

/-- R143: either byte can fail. -/
theorem takeAnswer_txErr {b : Byte} (hp : s.phase = .asserted ∨ s.phase = .byteSent1)
    (hq : s.pending = some (.send b)) : s.takeAnswer .txErr = s.takeFault .transportFailure := by
  rcases hp with hp | hp <;> simp only [State.takeAnswer, hp, hq]

theorem takeAnswer_dlyDone_byteSent2 {n : Half} (hp : s.phase = .byteSent2) (hq : s.pending = some (.delay n)) :
    s.takeAnswer .dlyDone = s.completeTransaction := by
  simp only [State.takeAnswer, hp, hq]

/-- R142: with no request made there is nothing to answer. -/
theorem takeAnswer_of_none (hq : s.pending = none) (a : Answer) : s.takeAnswer a = s := by
  cases hp : s.phase <;> simp only [State.takeAnswer, hp, hq]

/-- R142: the transport does not answer the timer's request. -/
theorem takeAnswer_of_delay {n : Half} {a : Answer} (hq : s.pending = some (.delay n)) (ha : a ≠ .dlyDone) :
    s.takeAnswer a = s := by
  rcases takeAnswer_cases a s with h | ⟨-, -, hd, -⟩ | ⟨-, ⟨b, hs⟩, -⟩ | ⟨-, ⟨b, hs⟩, -⟩ | ⟨-, ⟨b, hs⟩, -⟩ |
    ⟨-, -, hd, -⟩
  · exact h
  · exact absurd hd ha
  · exact absurd (hq.symm.trans hs) nofun
  · exact absurd (hq.symm.trans hs) nofun
  · exact absurd (hq.symm.trans hs) nofun
  · exact absurd hd ha

/-- R142: the timer does not answer the transport's request. -/
theorem takeAnswer_of_send {b : Byte} (hq : s.pending = some (.send b)) : s.takeAnswer .dlyDone = s := by
  rcases takeAnswer_cases .dlyDone s with h | ⟨-, ⟨n, hd⟩, -⟩ | ⟨-, -, ha, -⟩ | ⟨-, -, ha, -⟩ | ⟨-, -, ha, -⟩ |
    ⟨-, ⟨n, hd⟩, -⟩
  · exact h
  · exact absurd (hq.symm.trans hd) nofun
  · exact nomatch ha
  · exact nomatch ha
  · exact nomatch ha
  · exact absurd (hq.symm.trans hd) nofun

/-! ## Absorbing an input -/

theorem absorb_answer (a : Answer) (s : State) : s.absorb (.answer a) = s.issue.takeAnswer a := rfl

theorem absorb_answer_of_pending {q : CapRequest} (a : Answer) (hq : s.pending = some q) :
    s.absorb (.answer a) = s.takeAnswer a := by
  rw [absorb_answer, issue_of_pending hq]

theorem absorb_quiet (s : State) : s.absorb .quiet = s.issue := rfl

theorem absorb_dlyDone_asserted (hp : s.phase = .asserted) (hq : s.pending = none) :
    s.absorb (.answer .dlyDone) = (s.delayMs Config.settleMs).sendByte s.tx0 := by
  rw [absorb_answer, issue_asserted hp hq]
  exact takeAnswer_dlyDone_asserted (s := s.delayMs _) hp rfl

theorem absorb_txAck_byteSent1 (hp : s.phase = .byteSent1) (hq : s.pending = none) :
    s.absorb (.answer .txAck) = (s.sendByte s.tx1).byteSent .byteSent2 := by
  rw [absorb_answer, issue_byteSent1 hp hq]
  exact takeAnswer_txAck_byteSent1 (s := s.sendByte _) hp rfl

theorem absorb_txErr_byteSent1 (hp : s.phase = .byteSent1) (hq : s.pending = none) :
    s.absorb (.answer .txErr) = (s.sendByte s.tx1).takeFault .transportFailure := by
  rw [absorb_answer, issue_byteSent1 hp hq]
  exact takeAnswer_txErr (s := s.sendByte _) (.inr hp) rfl

theorem absorb_dlyDone_byteSent2 (hp : s.phase = .byteSent2) (hq : s.pending = none) :
    s.absorb (.answer .dlyDone) = (s.delayMs Config.settleMs).completeTransaction := by
  rw [absorb_answer, issue_byteSent2 hp hq]
  exact takeAnswer_dlyDone_byteSent2 (s := s.delayMs _) hp rfl

/-- R169: a fault is no event, and what it leaves alone. -/
theorem takeFault_faults (k : CtrlError) (s : State) : Faults k [] s.inputs s (s.takeFault k) := by
  simp [Faults, SameConfiguration]

/-- R169: no fault but TransportFailure touches chip-select. -/
theorem takeFault_cs_of_ne {k : CtrlError} (hk : k ≠ .transportFailure) (s : State) : (s.takeFault k).cs = s.cs :=
  if_neg hk

/-- R131: what a construct leaves, in any phase. -/
theorem construct_freshHandle (fs n : Half) (s : State) : FreshHandle fs n [] s.inputs s (s.construct fs n) := by
  simp [FreshHandle]

end

/-- Settles O38: each row is the equation of its input, and the fields it names are read off. -/
theorem phaseTableRows : Obligations.PhaseTableRows := by
  intro s ms b
  refine ⟨fun _ => ⟨fun _ => ⟨takeFault_faults _ s, takeFault_cs_of_ne (k := .illegalRequest) nofun s⟩,
    fun fs n => construct_freshHandle fs n s, fun _ => rfl, fun _ => issue_of_pending⟩,
    fun hp hq => ?_, fun hp hq => ?_, fun hp hq => ?_, fun hp hq => ?_, fun hp hq => ?_, fun hp hq => ?_,
    fun hp hq => ?_, fun hp hq => ?_, fun hp hq => ?_, fun hp hq => ?_⟩
  · rw [absorb_quiet, issue_asserted hp hq]
    exact ⟨hp, rfl, rfl⟩
  · rw [absorb_quiet, issue_byteSent1 hp hq]
    exact ⟨hp, rfl, rfl⟩
  · rw [absorb_quiet, issue_byteSent2 hp hq]
    exact ⟨hp, rfl, rfl⟩
  · rw [absorb_dlyDone_asserted hp hq]
    exact ⟨hp, rfl, List.append_assoc _ _ _⟩
  · simp only [absorb_answer_of_pending _ hq, takeAnswer_dlyDone_asserted hp hq]
    exact ⟨hp, rfl, rfl, takeAnswer_of_delay hq nofun, takeAnswer_of_delay hq nofun⟩
  · simp only [absorb_answer_of_pending _ hq, takeAnswer_txAck_asserted hp hq, takeAnswer_txErr (.inl hp) hq]
    exact ⟨rfl, rfl, rfl, State.takeFault_trace _ s, rfl, takeAnswer_of_send hq⟩
  · rw [absorb_txAck_byteSent1 hp hq, absorb_txErr_byteSent1 hp hq]
    exact ⟨rfl, rfl, rfl, State.takeFault_trace _ _, rfl⟩
  · simp only [absorb_answer_of_pending _ hq, takeAnswer_txAck_byteSent1 hp hq, takeAnswer_txErr (.inr hp) hq]
    exact ⟨rfl, rfl, rfl, State.takeFault_trace _ s, rfl, takeAnswer_of_send hq⟩
  · rw [absorb_dlyDone_byteSent2 hp hq]
    exact ⟨rfl, rfl, List.append_assoc _ _ _, rfl⟩
  · simp only [absorb_answer_of_pending _ hq, takeAnswer_dlyDone_byteSent2 hp hq]
    exact ⟨rfl, rfl, rfl, rfl, takeAnswer_of_delay hq nofun, takeAnswer_of_delay hq nofun⟩

end Sys2Proof.Proofs
end

section
/-! PROOFS. A transaction over the inputs to come (42_controller.md R139, R142): it absorbs them one at a time to the
first that ends it, from its start or from where a step finds it held; answered, it goes on to its end from any of its
waits. -/

namespace Sys2Proof.Proofs

open Sys2Proof.Machine Sys2Proof.Safety

/-! ## One input after the other -/

section

variable {s : State} {ev : Input} {rest : List Input}

theorem drive_of_busy (h : (s.absorb ev).phase.busy = true) (rest : List Input) :
    drive (ev :: rest) s = drive rest (s.absorb ev) := by
  rw [drive, if_pos h]

theorem drive_of_ended (h : (s.absorb ev).phase.busy = false) (rest : List Input) :
    drive (ev :: rest) s = { s.absorb ev with inputs := rest } := by
  rw [drive, if_neg (Bool.eq_false_iff.mp h)]

/-- Inputs that do not end a transaction are absorbed one after the other. -/
theorem drive_append {sampled : List Input}
    (h : ∀ earlier, earlier <+: sampled → (absorbAll earlier s).phase.busy = true) (rest : List Input) :
    drive (sampled ++ rest) s = drive rest (absorbAll sampled s) := by
  induction sampled generalizing s with
  | nil => rfl
  | cons ev sampled ih =>
    have hev : (s.absorb ev).phase.busy = true := h [ev] (List.prefix_append [ev] sampled)
    rw [List.cons_append, drive_of_busy hev,
      ih fun earlier hearlier => h (ev :: earlier) (List.cons_prefix_cons.mpr ⟨rfl, hearlier⟩)]
    rfl

/-- R139: an instruction in Idle whose frame composes runs its transaction over the inputs to come. -/
theorem exec_composed {i : Instr} {m : MemoryAddress} {f : Frame} (hm : resolveAddress i.address = .ok m)
    (hf : compose m i.command i.data = .ok f) (hp : s.phase = .idle) :
    exec i s = .next (drive s.inputs (s.beginTransaction f)) :=
  (exec_eq_sendCommand i s).trans (sendCommand_composed hp hm hf)

/-- A step that samples an answer or a quiet moment during a transaction is that transaction over all the inputs. -/
theorem step_continues (hb : s.phase.busy = true) (hin : s.inputs = ev :: rest)
    (hev : (∃ a, ev = .answer a) ∨ ev = .quiet) : step s = .next (drive s.inputs (s.sampled rest)) := by
  have hcontinue : continueTransaction ev (s.sampled rest) = drive s.inputs (s.sampled rest) := by
    rw [hin]
    exact if_pos hb
  rcases hev with ⟨a, rfl⟩ | rfl
  · rw [step_answer hin, hcontinue]
  · rw [step_quiet hin, hcontinue]

end

/-- Settles O52: an instruction starts with the frame latched, and from there on, as from where it was held, the
transaction absorbs the inputs that do not end it and then the one that does, if there is one. -/
theorem transactionAbsorbsItsInputs : Obligations.TransactionAbsorbsItsInputs := by
  refine ⟨fun i m f s hm hf hp => ?_, fun s ev rest hb hin hev => step_continues hb hin hev,
    fun s ev sampled rest hbusy => ⟨fun hend => ?_, ?_⟩⟩
  · exact ⟨s.beginTransaction f, rfl, rfl, rfl, rfl, rfl, rfl, rfl, rfl, ⟨rfl, rfl, rfl⟩, exec_composed hm hf hp⟩
  · rw [drive_append hbusy, drive_of_ended hend]
  · have hholds := drive_append hbusy []
    rwa [List.append_nil] at hholds

/-! ## From each wait to the end -/

section

variable {s : State} {rest : List Input}

/-- The first event of those to the end of a transaction. -/
theorem Finishes.of_emit {events : List Event} {e : Event} {t : State} (h : Finishes events rest (s.emit e) t) :
    Finishes (e :: events) rest s t := by
  obtain ⟨htrace, hend⟩ := h
  exact ⟨by rw [htrace, State.emit_trace, List.append_assoc]; rfl, hend⟩

/-- A capability's answer finds the request of the phase made. -/
theorem drive_issue_answer (a : Answer) (rest : List Input) (s : State) :
    drive (.answer a :: rest) s.issue = drive (.answer a :: rest) s := by
  have habsorb : s.issue.absorb (.answer a) = s.absorb (.answer a) := by
    rw [absorb_answer, issue_issue, absorb_answer]
  rw [drive, drive, habsorb]

theorem finishes_byteSent2_waiting {n : Half} (hp : s.phase = .byteSent2) (hq : s.pending = some (.delay n)) :
    Finishes [.csHigh] rest s (drive (.answer .dlyDone :: rest) s) := by
  have habsorb : s.absorb (.answer .dlyDone) = s.completeTransaction := by
    rw [absorb_answer_of_pending _ hq, takeAnswer_dlyDone_byteSent2 hp hq]
  rw [drive_of_ended (by rw [habsorb]; rfl), habsorb]
  exact ⟨rfl, rfl, rfl, rfl, rfl, rfl, rfl, rfl, rfl, rfl⟩

theorem finishes_byteSent2 (hp : s.phase = .byteSent2) (hq : s.pending = none) :
    Finishes [.delayMs 1, .csHigh] rest s (drive (.answer .dlyDone :: rest) s) := by
  rw [← drive_issue_answer, issue_byteSent2 hp hq]
  exact Finishes.of_emit (finishes_byteSent2_waiting (s := s.delayMs Config.settleMs) hp rfl)

theorem finishes_byteSent1_waiting {b : Byte} (hp : s.phase = .byteSent1) (hq : s.pending = some (.send b)) :
    Finishes [.delayMs 1, .csHigh] rest s (drive (.answer .txAck :: .answer .dlyDone :: rest) s) := by
  have habsorb : s.absorb (.answer .txAck) = s.byteSent .byteSent2 := by
    rw [absorb_answer_of_pending _ hq, takeAnswer_txAck_byteSent1 hp hq]
  rw [drive_of_busy (by rw [habsorb]; rfl), habsorb]
  exact finishes_byteSent2 (s := s.byteSent .byteSent2) rfl rfl

theorem finishes_byteSent1 (hp : s.phase = .byteSent1) (hq : s.pending = none) :
    Finishes [.send s.tx1, .delayMs 1, .csHigh] rest s (drive (.answer .txAck :: .answer .dlyDone :: rest) s) := by
  rw [← drive_issue_answer, issue_byteSent1 hp hq]
  exact Finishes.of_emit (finishes_byteSent1_waiting (s := s.sendByte s.tx1) hp rfl)

theorem finishes_asserted_sending {b : Byte} (hp : s.phase = .asserted) (hq : s.pending = some (.send b)) :
    Finishes [.send s.tx1, .delayMs 1, .csHigh] rest s
      (drive (.answer .txAck :: .answer .txAck :: .answer .dlyDone :: rest) s) := by
  have habsorb : s.absorb (.answer .txAck) = s.byteSent .byteSent1 := by
    rw [absorb_answer_of_pending _ hq, takeAnswer_txAck_asserted hp hq]
  rw [drive_of_busy (by rw [habsorb]; rfl), habsorb]
  exact finishes_byteSent1 (s := s.byteSent .byteSent1) rfl rfl

theorem finishes_asserted_settling {n : Half} (hp : s.phase = .asserted) (hq : s.pending = some (.delay n)) :
    Finishes [.send s.tx0, .send s.tx1, .delayMs 1, .csHigh] rest s (drive (acknowledged ++ rest) s) := by
  have habsorb : s.absorb (.answer .dlyDone) = s.sendByte s.tx0 := by
    rw [absorb_answer_of_pending _ hq, takeAnswer_dlyDone_asserted hp hq]
  have hbusy : (s.absorb (.answer .dlyDone)).phase.busy = true := by
    rw [habsorb, State.sendByte_phase, hp]
    rfl
  rw [acknowledged, List.cons_append, drive_of_busy hbusy, habsorb]
  exact Finishes.of_emit (finishes_asserted_sending (s := s.sendByte s.tx0) hp rfl)

/-- A step that finds a transaction held, and answers to come, finishes as the transaction over those answers does. -/
theorem step_finishes {a : Answer} {events : List Event} {sampled : List Input} (hb : s.phase.busy = true)
    (hin : s.inputs = .answer a :: sampled)
    (h : Finishes events rest (s.sampled sampled) (drive (.answer a :: sampled) (s.sampled sampled))) :
    ∃ t, step s = .next t ∧ Finishes events rest s t :=
  ⟨_, step_continues hb hin (.inl ⟨a, rfl⟩), hin ▸ h⟩

end

/-- Settles O37: the step goes on with the transaction, which finishes from each of its waits. -/
theorem heldTransactionGoesOn : Obligations.HeldTransactionGoesOn := by
  intro s ms b rest
  refine ⟨fun hp hq hin => ?_, fun hp hq hin => ?_, fun hp hq hin => ?_, fun hp hq hin => ?_⟩
  · exact step_finishes ((Phase.busy_iff _).mpr (.inl hp)) hin (finishes_asserted_settling (s := s.sampled _) hp hq)
  · exact step_finishes ((Phase.busy_iff _).mpr (.inl hp)) hin (finishes_asserted_sending (s := s.sampled _) hp hq)
  · exact step_finishes ((Phase.busy_iff _).mpr (.inr (.inl hp))) hin
      (finishes_byteSent1_waiting (s := s.sampled _) hp hq)
  · exact step_finishes ((Phase.busy_iff _).mpr (.inr (.inr hp))) hin
      (finishes_byteSent2_waiting (s := s.sampled _) hp hq)

end Sys2Proof.Proofs
end

section
/-! PROOFS. Requests (42_controller.md R145, R148): each is admitted or not before anything of it is read (R167); what a
step on one runs; and `set_resistance` (R133 to R137), whose scaling is exact and whose frame always composes. -/

namespace Sys2Proof.Proofs

open Sys2Proof.Machine Sys2Proof.Safety

/-! ## Admission -/

/-- R167: whatever a request asks for, admission comes first. -/
theorem runRequest_eq_whenIdle {slotW : Nat} (r : RequestPorts slotW) :
    ∃ accepted, ∀ s, runRequest r s = s.whenIdle accepted := by
  unfold runRequest runRequestBy
  split
  · split
    · exact ⟨_, fun s => exec_eq_sendCommand _ s⟩
    · exact ⟨_, fun s => rfl⟩
  · split
    · exact ⟨_, fun s => rfl⟩
    · exact ⟨_, fun s => rfl⟩

section

variable {slotW : Nat} (r : RequestPorts slotW) {s : State}

theorem runRequest_busy (hb : s.phase.busy = true) : runRequest r s = .next (s.takeFault .illegalRequest) := by
  obtain ⟨accepted, h⟩ := runRequest_eq_whenIdle r
  rw [h, whenIdle_busy hb]

theorem runRequest_faulted (hp : s.phase = .faulted) : runRequest r s = .next s := by
  obtain ⟨accepted, h⟩ := runRequest_eq_whenIdle r
  rw [h, whenIdle_faulted hp]

theorem runRequest_noHandle (hp : s.phase = .noHandle) : runRequest r s = .refused .noHandle := by
  obtain ⟨accepted, h⟩ := runRequest_eq_whenIdle r
  rw [h, whenIdle_noHandle hp]

end

/-! ## Instructions -/

/-- Settles O21: `req_op` 0 runs what the ports decode to. -/
theorem stepRunsTheRequestedInstruction : Obligations.StepRunsTheRequestedInstruction := by
  intro s r rest i hin hop hi
  rw [step_request hin, runRequest, runRequestBy, if_pos hop, hi]
  rfl

/-- A slot that is in range fits the block's slot port. -/
theorem fits_of_inRange {a : AddressOperand} (h : a.inRange = true) : a.fits Config.slotW = true := by
  cases a with
  | dataEEPROM slot =>
    have hslot : slot < 10 := of_decide_eq_true h
    exact decide_eq_true (hslot.trans (by decide))
  | volatileWiper0 | volatileWiper1 | nonVolatileWiper0 | nonVolatileWiper1 | volatileTCON | status | wiperLock => rfl

/-- Every word of the opcode table that decodes is one of a well-formed instruction. -/
theorem decodeTableWord_wf {nbits w : Nat} {i : Instr} (h : decodeTableWord nbits w = some i) : i.wf = true := by
  simp only [decodeTableWord, decode] at h
  split at h
  · cases hw : decodeWire ((BitVec.ofNat 16 (w % 2 ^ nbits)).extractLsb' 8 8 ++
        (BitVec.ofNat 16 (w % 2 ^ nbits)).extractLsb' 0 8) with
    | error e => simp [hw] at h
    | ok j =>
      obtain rfl : j = i := by simpa [hw] using h
      obtain ⟨-, hwf⟩ := decodedWireWordEncodesBack _ _ _ hw
      exact hwf
  · cases h

/-- Settles O22: a word decodes to a well-formed instruction, which the request ports placed for it name exactly. -/
theorem placedWordRunsNext : Obligations.PlacedWordRunsNext := by
  intro s w i hw
  obtain ⟨hrange, -⟩ : i.address.inRange = true ∧ i.command.dataLegal i.data = true :=
    (Bool.and_eq_true _ _).mp (decodeTableWord_wf hw)
  have hplaced : s.withFetchWord 16 w =
      { s with phase := .idle, cs := 1, faultCode := none, pending := none, inputs := presented i } := by
    simp only [State.withFetchWord, placeWord, hw]
  rw [hplaced]
  exact step_presented (requestDecodesBack _ i (fits_of_inRange hrange)) rfl

/-- R161: legal data presence, as the check of a well-formed instruction has it. -/
theorem dataLegal_iff (c : Command) (d : Option Half) : c.dataLegal d = true ↔ (c = .write ↔ d ≠ none) := by
  rw [Command.dataLegal, beq_iff_eq, Bool.eq_iff_iff, decide_eq_true_iff, Option.isSome_iff_ne_none]

/-- Settles O29: of the two checks the address passes, so the data presence is illegal, and nothing composes. -/
theorem illegalCombinationFaults : Obligations.IllegalCombinationFaults := by
  intro i s hrange hwf hp
  obtain ⟨m, hm⟩ := resolveAddress_inRange hrange
  have hdata : i.command.dataLegal i.data ≠ true := by simpa [Instr.wf, hrange] using hwf
  have hf := composeWith_illegal Config.dwlPos m (mt (dataLegal_iff _ _).mpr hdata)
  have hexec : exec i s = .next (s.takeFault .invalidCombination) := by
    simp only [exec_eq_sendCommand, sendCommand, sendCommandWith, whenIdle_idle hp, hm, hf, encFault]
  exact ⟨_, hexec, takeFault_faults _ s, takeFault_cs_of_ne (k := .invalidCombination) nofun s⟩

/-! ## `set_resistance` -/

theorem step_setResistance {s : State} {r : RequestPorts Config.slotW} {rest : List Input}
    (hin : s.inputs = .request r :: rest) (hop : r.op = 1) : step s = setResistance r.target (s.sampled rest) := by
  have hne : r.op ≠ 0 := by rw [hop]; decide
  rw [step_request hin, runRequest, runRequestBy, if_neg hne, if_pos hop]

theorem setResistance_zero {s : State} (hp : s.phase = .idle) (hfs : s.fullScale = 0) (target : Half) :
    setResistance target s = .next (s.takeFault .scaleDivByZero) := by
  rw [setResistance, whenIdle_idle hp, if_pos hfs]

/-- R133: with a scale to divide by, it is a Write of the scaled value. -/
theorem setResistance_eq_write {s : State} (hp : s.phase = .idle) (hfs : s.fullScale ≠ 0) (target : Half) :
    setResistance target s = exec (.write .volatileWiper0 (some (scaleRaw s.fullScale s.nBits target))) s := by
  rw [setResistance, whenIdle_idle hp, if_neg hfs]
  rfl

/-- Settles O32: the division is checked before anything else. -/
theorem zeroFullScaleFaults : Obligations.ZeroFullScaleFaults := by
  intro r s rest hin hp hop hfs
  have hstep := (step_setResistance hin hop).trans (setResistance_zero (s := s.sampled rest) hp hfs r.target)
  exact ⟨_, hstep, takeFault_sampled_faults _ rest s, takeFault_sampled_cs (by decide) rest s⟩

/-- R134: the capped target. -/
theorem cap_toNat (t fs : Half) : (if t ≤ fs then t else fs).toNat = min t.toNat fs.toNat := by
  rw [apply_ite BitVec.toNat, min_def]
  rfl

/-- R134: the product of two 16-bit values is exact in 32 bits. -/
theorem product_toNat (x y : Half) : (x.setWidth 32 * y.setWidth 32).toNat = x.toNat * y.toNat := by
  have hbound : x.toNat * y.toNat < 2 ^ 16 * 2 ^ 16 := Nat.mul_lt_mul'' x.isLt y.isLt
  rw [BitVec.toNat_mul, BitVec.toNat_setWidth_of_le (by decide), BitVec.toNat_setWidth_of_le (by decide)]
  exact Nat.mod_eq_of_lt hbound

/-- Capped at the scale, a target is scaled to at most the number of steps. -/
theorem scaled_le (t n : Nat) {fs : Nat} (hfs : 0 < fs) : min t fs * n / fs ≤ n :=
  calc min t fs * n / fs ≤ fs * n / fs := Nat.div_le_div_right (Nat.mul_le_mul_right n (Nat.min_le_right t fs))
    _ = n := Nat.mul_div_cancel_left n hfs

/-- Settles O27: cap and product are exact, and the quotient, at most `n_bits`, fits 16 bits. -/
theorem scalingIsExact : Obligations.ScalingIsExact := by
  intro fs n t hfs
  have hpos : 0 < fs.toNat := Nat.pos_of_ne_zero (mt (BitVec.eq_of_toNat_eq (y := 0)) hfs)
  have hle := scaled_le t.toNat n.toNat hpos
  have hexact : (scaleRaw fs n t).toNat = min t.toNat fs.toNat * n.toNat / fs.toNat := by
    rw [scaleRaw, BitVec.toNat_setWidth, BitVec.toNat_udiv, product_toNat, cap_toNat,
      BitVec.toNat_setWidth_of_le (by decide)]
    exact Nat.mod_eq_of_lt (hle.trans_lt n.isLt)
  exact ⟨hexact, hexact ▸ hle⟩

/-- Settles O26: the step runs the Write of the scaled value, which completes as every Write does, at the address of
code 0. -/
theorem setResistanceCompletes : Obligations.SetResistanceCompletes := by
  have hstep : ∀ (r : RequestPorts Config.slotW) (s : State) (rest : List Input),
      r.op = 1 → s.phase = .idle → s.fullScale ≠ 0 → s.inputs = .request r :: rest →
      step s = exec (.write .volatileWiper0 (some (scaleRaw s.fullScale s.nBits r.target))) (s.sampled rest) :=
    fun r s rest hop hp hfs hin =>
      (step_setResistance hin hop).trans (setResistance_eq_write (s := s.sampled rest) hp hfs r.target)
  refine ⟨hstep, fun r s rest raw hop hp hfs hin hraw => ?_⟩
  obtain ⟨hexact, -⟩ := scalingIsExact s.fullScale s.nBits r.target hfs
  have hcode : (addrCode .volatileWiper0).toNat * 16 = 0 := rfl
  rw [hstep r s _ hop hp hfs hin, hraw, ← hexact]
  have hcompletes := writeCompletes .volatileWiper0 .volatileWiper0 (scaleRaw s.fullScale s.nBits r.target)
    (s.sampled (acknowledged ++ rest)) rest rfl hp rfl
  rwa [hcode, Nat.zero_add] at hcompletes

/-- A fault that a transaction under way can take (R143, R145). -/
def FaultOfTransaction (s : State) : Prop :=
  s.phase = .faulted → s.faultCode = some .transportFailure ∨ s.faultCode = some .illegalRequest

theorem faultOfTransaction_of_not_faulted {s : State} (h : s.phase ≠ .faulted) : FaultOfTransaction s :=
  fun hp => absurd hp h

theorem faultOfTransaction_of_busy {s : State} (hb : s.phase.busy = true) : FaultOfTransaction s :=
  faultOfTransaction_of_not_faulted fun hp => by simp [hp, Phase.busy] at hb

theorem takeAnswer_faultOfTransaction {s : State} (hb : s.phase.busy = true) (a : Answer) :
    FaultOfTransaction (s.takeAnswer a) := by
  rcases takeAnswer_cases a s with h | ⟨-, -, -, h⟩ | ⟨-, -, -, h⟩ | ⟨-, -, -, h⟩ | ⟨-, -, -, h⟩ | ⟨-, -, -, h⟩ <;>
    rw [h]
  · exact faultOfTransaction_of_busy hb
  · exact faultOfTransaction_of_busy (s := s.sendByte _) hb
  · exact faultOfTransaction_of_not_faulted nofun
  · exact faultOfTransaction_of_not_faulted nofun
  · exact fun _ => .inl rfl
  · exact faultOfTransaction_of_not_faulted nofun

theorem absorb_faultOfTransaction {s : State} (hb : s.phase.busy = true) (ev : Input) :
    FaultOfTransaction (s.absorb ev) := by
  have hissue : s.issue.phase.busy = true := by rwa [issue_phase]
  cases ev with
  | construct fs n => exact faultOfTransaction_of_not_faulted nofun
  | request r => exact fun _ => .inr rfl
  | encDrive p => exact faultOfTransaction_of_busy (s := { s with encIn := p }) hb
  | answer a => exact takeAnswer_faultOfTransaction hissue a
  | quiet => exact faultOfTransaction_of_busy hissue

/-- A transaction faults in no other way than a failed transport or a request. -/
theorem drive_faultOfTransaction (inputs : List Input) {s : State} (hb : s.phase.busy = true) :
    FaultOfTransaction (drive inputs s) := by
  obtain ⟨sampled, hin⟩ := drive_samples inputs s
  exact drive_induction FaultOfTransaction inputs (fun _ _ h => h)
    (fun s hb _ => faultOfTransaction_of_busy ((congrArg Phase.busy (issue_phase s)).trans hb)) sampled s hin
    (fun _ ev _ hb _ => absorb_faultOfTransaction hb ev) hb (faultOfTransaction_of_busy hb)

/-- Settles O44: with no scale to divide by it faults so; otherwise the Write to VolatileWiper0 composes, and only its
transaction can fault. -/
theorem setResistanceNeverMiscomposes : Obligations.SetResistanceNeverMiscomposes := by
  intro r s t rest hin hop hp hstep hfault
  rw [step_setResistance hin hop] at hstep
  by_cases hfs : s.fullScale = 0
  · rw [setResistance_zero (s := s.sampled rest) hp hfs] at hstep
    obtain rfl := Host.Outcome.next.inj hstep
    exact .inl rfl
  · have hwrite := exec_composed (i := .write .volatileWiper0 (some (scaleRaw s.fullScale s.nBits r.target)))
      (s := s.sampled rest) rfl (compose_write _ _) hp
    rw [setResistance_eq_write (s := s.sampled rest) hp hfs, State.sampled_fullScale, State.sampled_nBits,
      hwrite] at hstep
    obtain rfl := Host.Outcome.next.inj hstep
    exact .inr (drive_faultOfTransaction _ rfl hfault)

end Sys2Proof.Proofs
end

section
/-! PROOFS. What steps leave as it is: the configuration, which only construct writes (10_state.md R23, R24, R132); a
fault, which only construct clears (R170); and everything, where the phase table has no row (R142). -/

namespace Sys2Proof.Proofs

open Sys2Proof.Machine Sys2Proof.Safety

/-! ## The configuration -/

/-- The registers that construct writes (R23, R24) hold `fs` and `n`. -/
def Configured (fs n : Half) (s : State) : Prop :=
  s.fullScale = fs ∧ s.nBits = n

theorem Configured.issue {fs n : Half} {s : State} (h : Configured fs n s) : Configured fs n s.issue := by
  rcases issue_cases s with heq | ⟨-, -, heq⟩ | ⟨-, -, heq⟩ | ⟨-, -, heq⟩ <;> rw [heq] <;> exact h

theorem Configured.takeFault {fs n : Half} {s : State} (h : Configured fs n s) (k : CtrlError) :
    Configured fs n (s.takeFault k) := by
  rwa [Configured, State.takeFault_fullScale, State.takeFault_nBits]

theorem Configured.takeAnswer {fs n : Half} {s : State} (h : Configured fs n s) (a : Answer) :
    Configured fs n (s.takeAnswer a) := by
  rcases takeAnswer_cases a s with heq | ⟨-, -, -, heq⟩ | ⟨-, -, -, heq⟩ | ⟨-, -, -, heq⟩ | ⟨-, -, -, heq⟩ |
    ⟨-, -, -, heq⟩ <;> rw [heq]
  case inr.inr.inr.inr.inl => exact h.takeFault _
  all_goals exact h

/-- R132: no operation but construct writes the configuration. -/
theorem configured_kept (fs n : Half) :
    KeptByOperations (fun ev => ∀ fs' n', ev ≠ .construct fs' n') (Configured fs n) where
  sampled _ _ h := h
  inputs _ _ h := h
  issue _ _ h := h.issue
  takeAnswer _ a _ h := h.takeAnswer a
  takeFault _ k _ h := h.takeFault k
  beginTransaction _ _ _ h := h
  construct _ fs' n' hallowed _ := absurd rfl (hallowed fs' n')
  encDrive _ _ _ h := h

/-- Settles O42: every operation of a step that samples no construct keeps the configuration. -/
theorem configurationIsImmutable : Obligations.ConfigurationIsImmutable := fun s _ _ h hin hnone =>
  (configured_kept s.fullScale s.nBits).step h hin (fun _ hev fs n heq => hnone fs n (heq ▸ hev)) ⟨rfl, rfl⟩

/-! ## Between transactions -/

/-- R142: outside a transaction an answer or a quiet moment has no transition. -/
theorem continueTransaction_not_busy {s : State} (hb : s.phase.busy = false) (ev : Input) :
    continueTransaction ev s = s :=
  if_neg (Bool.eq_false_iff.mp hb)

theorem step_awaitingInput {s : State} (hb : s.phase.busy = false) (hin : s.inputs = []) :
    step s = .fault .awaitingInput := by
  rw [step, stepBy, hin]
  exact if_neg (Bool.eq_false_iff.mp hb)

/-- Settles O39: the input is sampled, and no transaction is there to take it. -/
theorem unaskedAnswersHaveNoTransition : Obligations.UnaskedAnswersHaveNoTransition := by
  intro s rest hp
  have hb : s.phase.busy = false := (Phase.not_busy_iff _).mpr hp
  have hstays := continueTransaction_not_busy (s := s.sampled rest) hb
  exact ⟨fun a hin => ⟨_, step_answer hin, hstays _⟩, fun hin => ⟨_, step_quiet hin, hstays _⟩, step_awaitingInput hb⟩

/-- R142, R170: all that a step does to a faulted CTRL: a construct, or the sampling of an input that changes nothing in
it but, where it is one of ENC's, ENC's ports. -/
theorem step_next_faulted {s t : State} (hp : s.phase = .faulted) (h : step s = .next t) :
    ∃ ev rest, s.inputs = ev :: rest ∧
      ((∃ fs n, ev = .construct fs n) ∨ t = s.sampled rest ∨ ∃ p, t = { s.sampled rest with encIn := p }) := by
  have hb : s.phase.busy = false := (Phase.not_busy_iff _).mpr (.inr (.inr hp))
  rcases step_next h with ⟨-, hbusy, -, -⟩ | ⟨ev, rest, hin, hcases⟩
  · exact absurd hbusy (Bool.eq_false_iff.mp hb)
  · refine ⟨ev, rest, hin, ?_⟩
    rcases hcases with ⟨fs, n, hev, -⟩ | ⟨r, -, hr⟩ | ⟨p, -, ht⟩ | ⟨-, ht⟩
    · exact .inl ⟨fs, n, hev⟩
    · rw [runRequest_faulted r (s := s.sampled rest) hp] at hr
      exact .inr (.inl (Host.Outcome.next.inj hr).symm)
    · exact .inr (.inr ⟨p, ht⟩)
    · exact .inr (.inl (ht.trans (continueTransaction_not_busy (s := s.sampled rest) hb ev)))

/-- Settles O35: short of a construct, a step of a faulted CTRL changes neither its registers nor its handshake. -/
theorem faultIsSticky : Obligations.FaultIsSticky := by
  intro s t hp h
  obtain ⟨ev, rest, hin, ⟨fs, n, rfl⟩ | rfl | ⟨p, rfl⟩⟩ := step_next_faulted hp h
  · exact .inl ⟨fs, n, rest, hin⟩
  · exact .inr ⟨hp, rfl, rfl, rfl, rfl, rfl, rfl⟩
  · exact .inr ⟨hp, rfl, rfl, rfl, rfl, rfl, rfl⟩

end Sys2Proof.Proofs
end

section
/-! PROOFS. The points of a transaction (42_controller.md R139, R142): where it stands between two inputs, with the
registers at each; how the inputs lead from point to point, and what ends or holds it there (R131, R143 to R145). -/

namespace Sys2Proof.Proofs

open Sys2Proof.Machine Sys2Proof.Safety

/-! ## The points -/

/-- Where a transaction can stand: a phase, with its request still to be made or made. -/
inductive Point where
  | begun
  | settling
  | sendingFirst
  | sentFirst
  | sendingSecond
  | sentSecond
  | settlingAgain

/-- The phase at a point (R139). -/
def Point.phase : Point → Phase
  | .begun | .settling | .sendingFirst => .asserted
  | .sentFirst | .sendingSecond => .byteSent1
  | .sentSecond | .settlingAgain => .byteSent2

/-- The request outstanding at a point of a transaction of `f`. -/
def Point.pending (f : Frame) : Point → Option CapRequest
  | .begun | .sentFirst | .sentSecond => none
  | .settling | .settlingAgain => some (.delay 1)
  | .sendingFirst => some (.send f.cmdByte)
  | .sendingSecond => some (.send (f.dataByte.getD 0x00))

/-- How many of the six events of a transaction precede a point. -/
def Point.eventCount : Point → Nat
  | .begun => 1
  | .settling => 2
  | .sendingFirst | .sentFirst => 3
  | .sendingSecond | .sentSecond => 4
  | .settlingAgain => 5

/-- The events of a transaction of `f` before a point. -/
def Point.events (f : Frame) (p : Point) : List Event :=
  (transactionEvents f.cmdByte (f.dataByte.getD 0x00)).take p.eventCount

/-- The point once the request of the phase is made. -/
def Point.issued : Point → Point
  | .begun => .settling
  | .sentFirst => .sendingSecond
  | .sentSecond => .settlingAgain
  | .settling => .settling
  | .sendingFirst => .sendingFirst
  | .sendingSecond => .sendingSecond
  | .settlingAgain => .settlingAgain

theorem Point.busy (p : Point) : p.phase.busy = true := by
  cases p <;> rfl

theorem Point.eventCount_lt (p : Point) : p.eventCount < 6 := by
  cases p <;> decide

theorem Point.events_prefix (f : Frame) (p : Point) :
    p.events f <+: transactionEvents f.cmdByte (f.dataByte.getD 0x00) :=
  List.take_prefix _ _

/-- No point is past the `CsHigh`. -/
theorem Point.events_ne (f : Frame) (p : Point) : p.events f ≠ transactionEvents f.cmdByte (f.dataByte.getD 0x00) := by
  intro h
  have hlength : min p.eventCount 6 = 6 := (List.length_take).symm.trans (congrArg List.length h)
  have hlt := p.eventCount_lt
  omega

/-! ## The registers at a point -/

/-- `x` is `s` in a transaction of the frame `f` that stands at the point `p`. -/
structure AtPoint (f : Frame) (p : Point) (s x : State) : Prop where
  phase : x.phase = p.phase
  pending : x.pending = p.pending f
  trace : x.trace = s.trace ++ p.events f
  cs : x.cs = 0
  tx0 : x.tx0 = f.cmdByte
  tx1 : x.tx1 = f.dataByte.getD 0x00
  txHasData : x.txHasData = f.dataByte.isSome
  resp : x.resp = none
  faultCode : x.faultCode = s.faultCode
  config : SameConfiguration s x

theorem atPoint_beginTransaction (f : Frame) (s : State) : AtPoint f .begun s (s.beginTransaction f) where
  phase := rfl
  pending := rfl
  trace := rfl
  cs := rfl
  tx0 := rfl
  tx1 := rfl
  txHasData := rfl
  resp := rfl
  faultCode := rfl
  config := ⟨rfl, rfl, rfl⟩

section

variable {f : Frame} {p q : Point} {s x : State}

theorem AtPoint.busy (h : AtPoint f p s x) : x.phase.busy = true :=
  h.phase ▸ p.busy

/-- A request made within the phase leads to the point that has it outstanding and its event before it. -/
theorem AtPoint.emit {e : Event} {c : CapRequest} (h : AtPoint f p s x) (hphase : p.phase = q.phase)
    (hpending : some c = q.pending f) (hevents : p.events f ++ [e] = q.events f) :
    AtPoint f q s { x.emit e with pending := some c } :=
  { h with
    phase := h.phase.trans hphase
    pending := hpending
    trace := by rw [State.emit_trace, h.trace, List.append_assoc, hevents] }

theorem AtPoint.byteSent (h : AtPoint f p s x) (hpending : none = q.pending f) (hevents : p.events f = q.events f) :
    AtPoint f q s (x.byteSent q.phase) :=
  { h with
    phase := rfl
    pending := hpending
    trace := hevents ▸ h.trace }

theorem AtPoint.issue (h : AtPoint f p s x) : AtPoint f p.issued s x.issue := by
  cases p with
  | begun =>
    rw [issue_asserted h.phase h.pending]
    exact h.emit rfl rfl rfl
  | sentFirst =>
    rw [issue_byteSent1 h.phase h.pending, h.tx1]
    exact h.emit rfl rfl rfl
  | sentSecond =>
    rw [issue_byteSent2 h.phase h.pending]
    exact h.emit rfl rfl rfl
  | settling | sendingFirst | sendingSecond | settlingAgain =>
    rw [issue_of_pending h.pending]
    exact h

theorem AtPoint.settled (h : AtPoint f .settling s x) : AtPoint f .sendingFirst s (x.takeAnswer .dlyDone) := by
  rw [takeAnswer_dlyDone_asserted h.phase h.pending, h.tx0]
  exact h.emit rfl rfl rfl

theorem AtPoint.firstSent (h : AtPoint f .sendingFirst s x) : AtPoint f .sentFirst s (x.takeAnswer .txAck) := by
  rw [takeAnswer_txAck_asserted h.phase h.pending]
  exact h.byteSent rfl rfl

theorem AtPoint.secondSent (h : AtPoint f .sendingSecond s x) : AtPoint f .sentSecond s (x.takeAnswer .txAck) := by
  rw [takeAnswer_txAck_byteSent1 h.phase h.pending]
  exact h.byteSent rfl rfl

/-- R141: the latches still hold the bytes of the frame. -/
theorem AtPoint.response (h : AtPoint f p s x) : x.response = ⟨f.cmdByte, f.dataByte⟩ := by
  obtain ⟨b, d⟩ := f
  rw [State.response, h.tx0, h.tx1, h.txHasData]
  cases d <;> rfl

/-- New values on ENC's ports change nothing else. -/
theorem AtPoint.encDrive (h : AtPoint f p s x) (e : EncPorts Config.slotW) :
    AtPoint f p { s with encIn := e } { x with encIn := e } :=
  { h with
    config := by
      obtain ⟨hfs, hn, -⟩ := h.config
      exact ⟨hfs, hn, rfl⟩ }

end

/-! ## From point to point -/

/-- The inputs `sampled` lead a transaction of `f` from its start to the point `p`. -/
def Reaches (f : Frame) (s : State) (sampled : List Input) (p : Point) : Prop :=
  ∃ x, AtPoint f p s x ∧ ∀ rest, drive (sampled ++ rest) (s.beginTransaction f) = drive rest x

section

variable {f : Frame} {p q : Point} {s : State} {sampled : List Input}

theorem Reaches.snoc {ev : Input} (h : Reaches f s sampled p)
    (hev : ∀ x, AtPoint f p s x → AtPoint f q s (x.absorb ev)) : Reaches f s (sampled ++ [ev]) q := by
  obtain ⟨x, hx, hdrive⟩ := h
  refine ⟨x.absorb ev, hev x hx, fun rest => ?_⟩
  rw [List.append_assoc, hdrive]
  exact drive_of_busy (hev x hx).busy rest

theorem Reaches.quiet (h : Reaches f s sampled p) : Reaches f s (sampled ++ [.quiet]) p.issued :=
  h.snoc fun _ hx => hx.issue

theorem reaches_begun (f : Frame) (s : State) : Reaches f s [] .begun :=
  ⟨_, atPoint_beginTransaction f s, fun _ => rfl⟩

theorem reaches_sendingFirst (f : Frame) (s : State) : Reaches f s [.answer .dlyDone] .sendingFirst :=
  (reaches_begun f s).snoc fun _ hx => hx.issue.settled

theorem reaches_sentFirst (f : Frame) (s : State) : Reaches f s [.answer .dlyDone, .answer .txAck] .sentFirst :=
  (reaches_sendingFirst f s).snoc fun _ hx => hx.issue.firstSent

theorem reaches_sentSecond (f : Frame) (s : State) :
    Reaches f s [.answer .dlyDone, .answer .txAck, .answer .txAck] .sentSecond :=
  (reaches_sentFirst f s).snoc fun _ hx => hx.issue.secondSent

/-- Each of the listed points is reached by the inputs listed for it. -/
theorem reaches_of_mem_transactionPoints {events : List Event} (h : (sampled, events) ∈ transactionPoints f)
    (s : State) : ∃ p : Point, p.events f = events ∧ Reaches f s sampled p := by
  simp only [transactionPoints, List.mem_cons, List.not_mem_nil, or_false, Prod.mk.injEq] at h
  rcases h with ⟨rfl, rfl⟩ | ⟨rfl, rfl⟩ | ⟨rfl, rfl⟩ | ⟨rfl, rfl⟩ | ⟨rfl, rfl⟩ | ⟨rfl, rfl⟩ | ⟨rfl, rfl⟩
  · exact ⟨.begun, rfl, reaches_begun f s⟩
  · exact ⟨.settling, rfl, (reaches_begun f s).quiet⟩
  · exact ⟨.sendingFirst, rfl, reaches_sendingFirst f s⟩
  · exact ⟨.sentFirst, rfl, reaches_sentFirst f s⟩
  · exact ⟨.sendingSecond, rfl, (reaches_sentFirst f s).quiet⟩
  · exact ⟨.sentSecond, rfl, reaches_sentSecond f s⟩
  · exact ⟨.settlingAgain, rfl, (reaches_sentSecond f s).quiet⟩

/-- An instruction whose inputs begin with those that reach a point goes on from that point over the others. -/
theorem exec_reaches {i : Instr} {m : MemoryAddress} {rest : List Input} (hm : resolveAddress i.address = .ok m)
    (hf : compose m i.command i.data = .ok f) (hp : s.phase = .idle) (hin : s.inputs = sampled ++ rest)
    (h : Reaches f s sampled p) : ∃ x, AtPoint f p s x ∧ exec i s = .next (drive rest x) := by
  obtain ⟨x, hx, hdrive⟩ := h
  exact ⟨x, hx, by rw [exec_composed hm hf hp, hin, hdrive]⟩

end

/-! ## What ends a transaction at a point -/

section

variable {f : Frame} {p : Point} {s x : State} (rest : List Input)

theorem AtPoint.construct_freshHandle (h : AtPoint f p s x) (fs n : Half) :
    FreshHandle fs n (p.events f) rest s (drive (.construct fs n :: rest) x) := by
  obtain ⟨-, -, henc⟩ := h.config
  rw [drive_of_ended rfl]
  exact ⟨rfl, rfl, rfl, congrArg (· ++ [Event.csHigh]) h.trace, rfl, rfl, rfl, rfl, rfl, henc⟩

/-- R169: a fault of the transaction under way, after the events before it. -/
theorem AtPoint.takeFault_faults (h : AtPoint f p s x) (k : CtrlError) :
    Faults k (p.events f) rest s { x.takeFault k with inputs := rest } := by
  obtain ⟨hfs, hn, henc⟩ := h.config
  exact ⟨rfl, rfl, (State.takeFault_trace k x).trans h.trace, rfl, rfl, rfl, (State.takeFault_fullScale k x).trans hfs,
    (State.takeFault_nBits k x).trans hn, (State.takeFault_encIn k x).trans henc⟩

/-- R145: a request ends the transaction, chip-select still low. -/
theorem AtPoint.request_faults (h : AtPoint f p s x) (r : RequestPorts Config.slotW) :
    Faults .illegalRequest (p.events f) rest s (drive (.request r :: rest) x) ∧
      (drive (.request r :: rest) x).cs = 0 := by
  rw [drive_of_ended rfl]
  exact ⟨h.takeFault_faults rest .illegalRequest, (takeFault_cs_of_ne (k := .illegalRequest) nofun x).trans h.cs⟩

/-- R143: the failure of a byte ends the transaction, after its `Send`. -/
theorem AtPoint.txErr_faults (h : AtPoint f p s x) (hp : p.issued = .sendingFirst ∨ p.issued = .sendingSecond) :
    Faults .transportFailure (p.issued.events f) rest s (drive (.answer .txErr :: rest) x) := by
  have hissued := h.issue
  have hfault : x.absorb (.answer .txErr) = x.issue.takeFault .transportFailure := by
    rcases hp with hp | hp <;> rw [hp] at hissued
    · exact takeAnswer_txErr (.inl hissued.phase) hissued.pending
    · exact takeAnswer_txErr (.inr hissued.phase) hissued.pending
  rw [drive_of_ended (by rw [hfault]; rfl), hfault]
  exact hissued.takeFault_faults rest .transportFailure

end

/-- Settles O28: a construct makes the handle from any state, so from that of each point a transaction reaches. -/
theorem constructMakesAFreshHandle : Obligations.ConstructMakesAFreshHandle := by
  refine ⟨fun s fs n rest hin => ⟨_, step_construct hin, construct_freshHandle fs n (s.sampled rest)⟩, ?_⟩
  intro i m f s fs n sampled rest events hm hf hp hpoint hin
  obtain ⟨p, rfl, hreaches⟩ := reaches_of_mem_transactionPoints hpoint s
  obtain ⟨x, hx, hexec⟩ := exec_reaches hm hf hp hin hreaches
  exact ⟨_, hexec, hx.construct_freshHandle rest fs n⟩

/-- Settles O33: admission decides outside Idle, and within an instruction each point that is reached is one of a
transaction under way. -/
theorem requestsAreAcceptedOnlyInIdle : Obligations.RequestsAreAcceptedOnlyInIdle := by
  refine ⟨fun r s rest hin => ⟨fun hp => ?_, fun hp => ?_, fun hp => ?_⟩, ?_⟩
  · have hb : (s.sampled rest).phase.busy = true := (Phase.busy_iff _).mpr hp
    exact ⟨_, (step_request hin).trans (runRequest_busy r hb), takeFault_sampled_faults _ rest s,
      takeFault_sampled_cs (by decide) rest s⟩
  · exact ⟨_, (step_request hin).trans (runRequest_faulted r (s := s.sampled rest) hp), rfl⟩
  · exact (step_request hin).trans (runRequest_noHandle r (s := s.sampled rest) hp)
  · intro i m f r s sampled rest events hm hf hp hpoint hin
    obtain ⟨p, rfl, hreaches⟩ := reaches_of_mem_transactionPoints hpoint s
    obtain ⟨x, hx, hexec⟩ := exec_reaches hm hf hp hin hreaches
    exact ⟨_, hexec, hx.request_faults rest r⟩

/-- Settles O34: the inputs before the failure lead to the point of its byte. -/
theorem transportFailureFaults : Obligations.TransportFailureFaults := by
  intro i m f s rest hm hf hp
  constructor <;> intro hin
  · have hsplit : s.inputs = [.answer .dlyDone] ++ .answer .txErr :: rest := hin
    obtain ⟨x, hx, hexec⟩ := exec_reaches hm hf hp hsplit (reaches_sendingFirst f s)
    exact ⟨_, hexec, hx.txErr_faults rest (.inl rfl)⟩
  · have hsplit : s.inputs = [.answer .dlyDone, .answer .txAck] ++ .answer .txErr :: rest := hin
    obtain ⟨x, hx, hexec⟩ := exec_reaches hm hf hp hsplit (reaches_sentFirst f s)
    exact ⟨_, hexec, hx.txErr_faults rest (.inr rfl)⟩

/-! ## What holds a transaction at a point -/

/-- Quiet moments and the end of the inputs do one thing: the request of the phase is made. -/
theorem drive_replicate_quiet (n : Nat) (s : State) (hb : s.phase.busy = true) :
    drive (List.replicate n .quiet) s = { s.issue with inputs := [] } := by
  induction n generalizing s with
  | zero => rfl
  | succ n ih =>
    have hb' : (s.absorb .quiet).phase.busy = true := by rwa [absorb_quiet, issue_phase]
    rw [List.replicate_succ, drive_of_busy hb', ih _ hb', absorb_quiet, issue_issue]

/-- The wait for the answer to a request. -/
def waitsFor : CapRequest → Fault
  | .delay _ => .awaitingTimer
  | .send _ => .awaitingTransport

/-- R144: with a request outstanding and nothing to come there is no step. -/
theorem step_waits {s : State} {c : CapRequest} (hb : s.phase.busy = true) (hq : s.pending = some c)
    (hin : s.inputs = []) : step s = .fault (waitsFor c) := by
  rw [step, stepBy, hin]
  cases c <;> simp only [runNoInput, hb, hq, if_true, waitsFor]

theorem AtPoint.holds {f : Frame} {p : Point} {s x : State} {c : CapRequest} (h : AtPoint f p s x)
    (hc : p.pending f = some c) : Holds f p.phase c (p.events f) s { x with inputs := [] } :=
  ⟨h.phase, h.pending.trans hc, h.trace, h.cs, h.tx0, h.tx1, h.txHasData, h.resp, rfl, h.faultCode, h.config⟩

/-- An instruction whose inputs reach a point, with nothing but quiet moments after them, holds with the request of that
point's phase made. -/
theorem exec_holds {i : Instr} {m : MemoryAddress} {f : Frame} {p : Point} {s : State} {sampled : List Input} {n : Nat}
    {c : CapRequest} (hm : resolveAddress i.address = .ok m) (hf : compose m i.command i.data = .ok f)
    (hp : s.phase = .idle) (hin : s.inputs = sampled ++ List.replicate n .quiet) (h : Reaches f s sampled p)
    (hc : p.issued.pending f = some c) :
    ∃ t, exec i s = .next t ∧ Holds f p.issued.phase c (p.issued.events f) s t ∧ step t = .fault (waitsFor c) := by
  obtain ⟨x, hx, hexec⟩ := exec_reaches hm hf hp hin h
  have hissued := hx.issue
  rw [drive_replicate_quiet n x hx.busy] at hexec
  exact ⟨_, hexec, hissued.holds hc,
    step_waits (s := { x.issue with inputs := [] }) hissued.busy (hissued.pending.trans hc) rfl⟩

/-- Settles O36: the inputs lead to each of the four waits, where quiet moments change nothing. -/
theorem silentCapabilityHolds : Obligations.SilentCapabilityHolds := by
  refine ⟨fun i m f s n hm hf hp => ⟨fun hin => ?_, fun hin => ?_, fun hin => ?_, fun hin => ?_⟩,
    fun s q n hb hq hin => ?_, fun s hb hq hin => ?_⟩
  · exact exec_holds hm hf hp hin (reaches_begun f s) rfl
  · exact exec_holds hm hf hp hin (reaches_sendingFirst f s) rfl
  · exact exec_holds hm hf hp hin (reaches_sentFirst f s) rfl
  · exact exec_holds hm hf hp hin (reaches_sentSecond f s) rfl
  · have hstays := drive_quiet (n + 1) (s.sampled (List.replicate n .quiet)) hb hq
    rw [step_continues hb hin (.inr rfl), hin, hstays]
    rfl
  · rw [step, stepBy, hin]
    simp only [runNoInput, hb, hq, if_true, absorb_quiet]

/-! ## Where a transaction can end up -/

/-- How far a transaction of `f` from `s` has come, if no construct came: it stands at a point, or it has completed, or
it has faulted at one. ENC's ports may have been driven meanwhile. -/
inductive Progress (f : Frame) (s x : State) : Prop where
  | underWay (e : EncPorts Config.slotW) (p : Point) (h : AtPoint f p { s with encIn := e } x)
  | completed (hphase : x.phase = .idle)
      (htrace : x.trace = s.trace ++ transactionEvents f.cmdByte (f.dataByte.getD 0x00))
      (hcs : x.cs = 1) (hresp : x.resp = some ⟨f.cmdByte, f.dataByte⟩)
  | faulted (p : Point) (hphase : x.phase = .faulted) (htrace : x.trace = s.trace ++ p.events f)
      (hresp : x.resp = none)

section

variable {f : Frame} {p : Point} {s x : State} {e : EncPorts Config.slotW}

theorem AtPoint.progress_takeFault (h : AtPoint f p { s with encIn := e } x) (k : CtrlError) :
    Progress f s (x.takeFault k) :=
  .faulted p rfl ((State.takeFault_trace k x).trans h.trace) rfl

theorem AtPoint.progress_of_eq {y : State} (h : AtPoint f p { s with encIn := e } x) (heq : y = x) : Progress f s y :=
  .underWay e p (heq ▸ h)

theorem AtPoint.progress_completed (h : AtPoint f .settlingAgain { s with encIn := e } x) :
    Progress f s x.completeTransaction :=
  .completed rfl (by rw [State.completeTransaction_trace, h.trace, List.append_assoc]; rfl) rfl
    (congrArg some h.response)

/-- R142: the answer to the request of a point leads to the next point, to the end or to a fault; any other nowhere. -/
theorem AtPoint.progress_takeAnswer (h : AtPoint f p { s with encIn := e } x) (a : Answer) :
    Progress f s (x.takeAnswer a) := by
  cases p with
  | begun | sentFirst | sentSecond => exact h.progress_of_eq (takeAnswer_of_none h.pending a)
  | settling =>
    cases a with
    | dlyDone => exact .underWay e _ h.settled
    | txAck | txErr => exact h.progress_of_eq (takeAnswer_of_delay h.pending nofun)
  | sendingFirst =>
    cases a with
    | dlyDone => exact h.progress_of_eq (takeAnswer_of_send h.pending)
    | txAck => exact .underWay e _ h.firstSent
    | txErr => exact takeAnswer_txErr (.inl h.phase) h.pending ▸ h.progress_takeFault _
  | sendingSecond =>
    cases a with
    | dlyDone => exact h.progress_of_eq (takeAnswer_of_send h.pending)
    | txAck => exact .underWay e _ h.secondSent
    | txErr => exact takeAnswer_txErr (.inr h.phase) h.pending ▸ h.progress_takeFault _
  | settlingAgain =>
    cases a with
    | dlyDone => exact takeAnswer_dlyDone_byteSent2 h.phase h.pending ▸ h.progress_completed
    | txAck | txErr => exact h.progress_of_eq (takeAnswer_of_delay h.pending nofun)

theorem AtPoint.progress_absorb (h : AtPoint f p { s with encIn := e } x) {ev : Input}
    (hev : ∀ fs n, ev ≠ .construct fs n) : Progress f s (x.absorb ev) := by
  cases ev with
  | construct fs n => exact absurd rfl (hev fs n)
  | request r => exact h.progress_takeFault .illegalRequest
  | encDrive e' => exact .underWay e' p (h.encDrive e')
  | answer a => exact h.issue.progress_takeAnswer a
  | quiet => exact .underWay e _ h.issue

/-- While it is busy, a transaction stands at a point. -/
theorem Progress.atPoint (h : Progress f s x) (hb : x.phase.busy = true) :
    ∃ e p, AtPoint f p { s with encIn := e } x := by
  cases h with
  | underWay e p h => exact ⟨e, p, h⟩
  | completed hphase => simp [hphase, Phase.busy] at hb
  | faulted p hphase => simp [hphase, Phase.busy] at hb

theorem Progress.withInputs (h : Progress f s x) (rest : List Input) : Progress f s { x with inputs := rest } := by
  cases h with
  | underWay e p h => exact .underWay e p { h with }
  | completed hphase htrace hcs hresp => exact .completed hphase htrace hcs hresp
  | faulted p hphase htrace hresp => exact .faulted p hphase htrace hresp

/-- A transaction that samples no construct progresses. -/
theorem progress_drive {inputs sampled : List Input}
    (hin : inputs = sampled ++ (drive inputs (s.beginTransaction f)).inputs)
    (hnone : ∀ fs n, Input.construct fs n ∉ sampled) : Progress f s (drive inputs (s.beginTransaction f)) := by
  refine drive_induction (Progress f s) inputs (fun _ rest h => h.withInputs rest) (fun x hb h => ?_) sampled _ hin
    (fun x ev hev hb h => ?_) rfl (.underWay s.encIn .begun (atPoint_beginTransaction f s))
  · obtain ⟨e, p, hx⟩ := h.atPoint hb
    exact .underWay e _ hx.issue
  · obtain ⟨e, p, hx⟩ := h.atPoint hb
    exact hx.progress_absorb fun fs n heq => hnone fs n (heq ▸ hev)

theorem ne_idle_of_busy (hb : x.phase.busy = true) : x.phase ≠ .idle :=
  fun hidle => by simp [hidle, Phase.busy] at hb

end

/-- Settles O47: it has completed with all six events; or it has faulted or holds at a point, with fewer. -/
theorem transactionIsAllOrAPrefix : Obligations.TransactionIsAllOrAPrefix := by
  intro i m f s t sampled hm hf hp hexec hin hnone
  obtain rfl := Host.Outcome.next.inj ((exec_composed hm hf hp).symm.trans hexec)
  rcases progress_drive hin hnone with ⟨e, p, h⟩ | ⟨hphase, htrace, hcs, hresp⟩ | ⟨p, hphase, htrace, hresp⟩
  · have hidle := ne_idle_of_busy h.busy
    exact ⟨_, h.trace, p.events_prefix f, iff_of_false hidle (p.events_ne f), fun hi => absurd hi hidle,
      fun _ => ⟨h.resp, .inr ⟨h.busy, drive_busy _ _ h.busy⟩⟩⟩
  · exact ⟨_, htrace, List.prefix_refl _, iff_of_true hphase rfl, fun _ => ⟨hcs, hresp⟩,
      fun hidle => absurd hphase hidle⟩
  · have hidle : (drive s.inputs (s.beginTransaction f)).phase ≠ .idle := hphase ▸ nofun
    exact ⟨_, htrace, p.events_prefix f, iff_of_false hidle (p.events_ne f), fun hi => absurd hi hidle,
      fun _ => ⟨hresp, .inl hphase⟩⟩

end Sys2Proof.Proofs
end

section
/-! PROOFS. Faults before any event (60_exceptions.md R162, R163, R166): a slot out of range, a selector that names no
Command, an operation that does not exist. In Idle each is the fault of its own error and nothing else. -/

namespace Sys2Proof.Proofs

open Sys2Proof.Machine Sys2Proof.Safety

/-- Settles O30: the address is constructed before the data is looked at. -/
theorem outOfRangeSlotFaults : Obligations.OutOfRangeSlotFaults := fun _ s hrange hp =>
  ⟨_, exec_outOfRange hp hrange, takeFault_faults _ s, takeFault_cs_of_ne (k := .outOfRangeAddress) nofun s⟩

section

variable {slotW : Nat} {r : RequestPorts slotW} {s : State}

/-- R163: a `send_command` request whose selector names no Command presents no instruction. -/
theorem runRequest_illegalSelector (hp : s.phase = .idle) (hop : r.op = 0) (hsel : r.cmdSel = 6 ∨ r.cmdSel = 7) :
    runRequest r s = .next (s.takeFault .illegalSelector) := by
  simp only [runRequest, runRequestBy, if_pos hop, decodeRequest, decodeCommand_illegal hsel, whenIdle_idle hp]

/-- R148, R166: `req_op` 2 and 3 are neither of the two operations. -/
theorem runRequest_illegalOp (hp : s.phase = .idle) (hop : r.op = 2 ∨ r.op = 3) :
    runRequest r s = .next (s.takeFault .illegalRequest) := by
  have hsend : r.op ≠ 0 := by rcases hop with h | h <;> simp [h]
  have hset : r.op ≠ 1 := by rcases hop with h | h <;> simp [h]
  rw [runRequest, runRequestBy, if_neg hsend, if_neg hset, whenIdle_idle hp]

end

/-- A step on a request that faults leaves the fault of the state that sampled it, with chip-select untouched. -/
theorem step_request_faults {r : RequestPorts Config.slotW} {s : State} {rest : List Input} {k : CtrlError}
    (hin : s.inputs = .request r :: rest) (hk : k ≠ .transportFailure)
    (h : runRequest r (s.sampled rest) = .next ((s.sampled rest).takeFault k)) :
    ∃ t, step s = .next t ∧ Faults k [] rest s t ∧ t.cs = s.cs :=
  ⟨_, (step_request hin).trans h, takeFault_sampled_faults k rest s, takeFault_sampled_cs hk rest s⟩

/-- Settles O31: sampling the request leaves CTRL in Idle, and which of the two faults it takes depends on `req_op`. -/
theorem illegalPortsFault : Obligations.IllegalPortsFault := fun _ _ _ hin hp =>
  ⟨fun hop hsel => step_request_faults hin (by decide) (runRequest_illegalSelector hp hop hsel),
    fun hop => step_request_faults hin (by decide) (runRequest_illegalOp hp hop)⟩

end Sys2Proof.Proofs
end

section
/-! PROOFS. Before the first construct (70_reset_and_hazards.md R182): no instruction is admitted, and the invariant asks
only that nothing was traced, nothing is outstanding and no response stands, which power-on satisfies. -/

namespace Sys2Proof.Proofs

open Sys2Proof.Machine Sys2Proof.Safety

/-- Settles O43: an instruction is a `send_command`, which is refused at admission (R145) before its operands are read. -/
theorem noHandleRefusesEveryInstruction : Obligations.NoHandleRefusesEveryInstruction := fun i s hp => by
  rw [exec_eq_sendCommand, sendCommand, sendCommandWith, whenIdle_noHandle hp]

/-- Without a handle the framing says nothing more: an empty trace stands at the start of the cycle. -/
theorem ctrlInv_noHandle {s : State} (hp : s.phase = .noHandle) :
    CtrlInv s ↔ s.trace = [] ∧ s.pending = none ∧ s.resp = none := by
  simp only [CtrlInv, RegistersAgree, TraceFramed, hp]
  refine and_iff_left_of_imp fun ⟨htrace, _, _⟩ => ?_
  rw [htrace]
  rfl

/-- Settles O45: power-on holds no handle. -/
theorem invariantHoldsAtReset : Obligations.InvariantHoldsAtReset :=
  (ctrlInv_noHandle (s := State.reset) rfl).mpr ⟨rfl, rfl, rfl⟩

end Sys2Proof.Proofs
end
